-- ==== Sys2Proof/Word.lean ====
section
/-! DEFINITION. The bytes of the FB212's links and the numbers of its tables. -/

namespace Sys2Proof

/-- One byte of a frame, one character of a text. -/
abbrev Byte := BitVec 8

/-- A text: the characters alone, without its length byte (R201). -/
abbrev Text := List Byte

/-- Denominations 0 to 9. -/
abbrev Denom := Fin 10

/-- Tills 0 to 12; till 0 is the strongroom. -/
abbrev Till := Fin 13

/-- Stations, held from 0: the station the spec numbers n is n - 1 here (`stationNo`). -/
abbrev Station := Fin 12

/-- Printers 0 to 3. -/
abbrev Printer := Fin 4

/-- Ten numbers, one per denomination. -/
abbrev Counts := Vector Nat 10

/-- The number 1 to 12 by which the spec and the wire name a station. -/
def stationNo (s : Station) : Nat := s.val + 1

end Sys2Proof
end

