-- ==== Sys2Proof/Config.lean ====
section
/-! DEFINITION. The part's fixed capacities and limits (00 "Capacities at a glance"), and the values the spec leaves open. -/

namespace Sys2Proof.Config

/-- Journal entries (R8). -/
def journalCapacity : Nat := 4096
/-- The late-entry margin: a customer entry needs more free entries than this (R15). -/
def lateMargin : Nat := 320
/-- The free entries at which JOURNAL_LOW is raised (R17). -/
def lowFree : Nat := 640
/-- The last sequence number ever given (R13). -/
def lastSeq : Nat := 4294967295
/-- The highest count of a denomination in a till (R26). -/
def maxCount : Nat := 65535
/-- The highest face value (R25). -/
def maxFace : Nat := 100000
/-- The highest value of a till, and so of a limit (R25, R49). -/
def maxValue : Nat := 65535000000
/-- Pending transfers (R40). -/
def transferCapacity : Nat := 8
/-- Seconds a transfer waits for its answer (R40). -/
def transferTime : Nat := 300
/-- Seconds of grace of a lost station (R66). -/
def graceTime : Nat := 600
/-- Updates in an output queue (R91). -/
def outputCapacity : Nat := 8
/-- Entries in an input queue (R94). -/
def inputCapacity : Nat := 16
/-- Print jobs (R124). -/
def jobCapacity : Nat := 24
/-- Seconds a job waits for a book or a page turn (R130, R136). -/
def bookWait : Nat := 180
/-- Passbook pages, and lines of a page (R124). -/
def pages : Nat := 32
def pageLines : Nat := 24
/-- Seconds between a printer's last message and its probe (R111). -/
def probeTime : Nat := 5
/-- Notices in the queue (R191). -/
def noticeCapacity : Nat := 32
/-- Bytes of the items of a reply: the 512-byte payload less its status byte (11 "The host frame"). -/
def replyRoom : Nat := 511
/-- Seconds head office has for an answer (R177), an echo (R175), and of one hold (R181). -/
def ackTime : Nat := 20
def echoTime : Nat := 2
def holdTime : Nat := 600
/-- Blocks of the send window (R177). -/
def windowSize : Nat := 4
/-- TEST frames of a link test (R175). -/
def testFrames : Nat := 64
/-- The last second of a day, and the last date (R193). -/
def lastSecond : Nat := 86399
def lastDate : Nat := 65535

/-- FREE VALUE (log 4): which of the blocks still to act takes its run-outs next, in tick number n with k blocks left.
The spec gives the blocks of one tick no order (R193). -/
opaque tickPick (n k : Nat) : Nat

/-- FREE VALUE (log 13): the revision of the part, as a position in the alphabet; the spec says only
"one capital letter" (R195). -/
opaque revision : Fin 26

/-- FREE VALUE (log 13): the byte that stands for the end-of-page mark in a line field of a reply or a notice;
the spec gives the mark no code (R124, R140, R202). -/
opaque endOfPageByte : Byte

end Sys2Proof.Config
end

