-- ==== Sys2Proof/Syntax.lean ====
section
/-! DEFINITION. The commands of the FB212: one constructor per row of spec/opcode_table.json. A host request carries its tag
and the fields of its payload as the numbers and bytes the payload holds (R202); what those must be is the owning
rule's to check. -/

namespace Sys2Proof

/-- A host request: its tag (echoed, otherwise neither read nor kept, R190) and its fields; `none` when the payload
does not fit the layout of the request type (R190, R201). -/
structure Req (α : Type) where
  tag : Nat
  fields : Option α
deriving DecidableEq, Repr

/-- A request that carries no fields. -/
structure NoFields where
deriving DecidableEq, Repr

/-- DENOM SET (R5): (denomination, face value) pairs. -/
structure DenomSetFields where
  faces : List (Nat × Nat)
deriving DecidableEq, Repr

/-- OPENING SET (R6). -/
structure OpeningSetFields where
  till : Nat
  counts : List (Nat × Nat)
deriving DecidableEq, Repr

/-- DAY BEGIN (R7). -/
structure DayBeginFields where
  branch : Text
  day : Nat
deriving DecidableEq, Repr

/-- JOURNAL READ (R21). -/
structure JournalReadFields where
  start : Nat
  maximum : Nat
deriving DecidableEq, Repr

/-- TAKE TILL, RELEASE TILL, COUNT BEGIN and COUNT ABANDON (R29, R30, R36, R38). -/
structure StationTillFields where
  station : Nat
  till : Nat
deriving DecidableEq, Repr

/-- POST (R31). -/
structure PostFields where
  station : Nat
  kind : Nat
  till : Nat
  breakdown : List (Nat × Nat)
  account : Option Text
deriving DecidableEq, Repr

/-- VOID (R33). -/
structure VoidFields where
  station : Nat
  seq : Nat
deriving DecidableEq, Repr

/-- COUNT DECLARE (R37). -/
structure CountDeclareFields where
  station : Nat
  till : Nat
  counts : List (Nat × Nat)
deriving DecidableEq, Repr

/-- TRANSFER OFFER (R41). -/
structure TransferOfferFields where
  station : Nat
  destination : Nat
  breakdown : List (Nat × Nat)
deriving DecidableEq, Repr

/-- TRANSFER ACCEPT and TRANSFER REJECT (R42, R43). -/
structure StationTransferFields where
  station : Nat
  transfer : Nat
deriving DecidableEq, Repr

/-- TILL STATUS, LIMIT CLEAR and LIMIT ARM (R47, R59, R60). -/
structure TillFields where
  till : Nat
deriving DecidableEq, Repr

/-- LIMIT SET (R57). -/
structure LimitSetFields where
  till : Nat
  lower : Nat
  upper : Nat
  filter : Nat
  enforce : Bool
deriving DecidableEq, Repr

/-- SIGN ON (R68). -/
structure SignOnFields where
  station : Nat
  operator : Text
  role : Nat
deriving DecidableEq, Repr

/-- SIGN OFF, STATION STATUS, LINE TEST START and LINE TEST STOP (R70, R80, R97, R99). -/
structure StationFields where
  station : Nat
deriving DecidableEq, Repr

/-- STATION SETUP (R77). -/
structure StationSetupFields where
  station : Nat
  rows : Nat
  columns : Nat
  charset : Nat
  mask : Nat
deriving DecidableEq, Repr

/-- DISPLAY (R92). -/
structure DisplayFields where
  station : Nat
  row : Nat
  column : Nat
  attr : Nat
  text : Text
deriving DecidableEq, Repr

/-- READ INPUT (R94). -/
structure ReadInputFields where
  station : Nat
  maximum : Nat
deriving DecidableEq, Repr

/-- SCAN SET (R100). -/
structure ScanSetFields where
  first : Nat
  last : Nat
deriving DecidableEq, Repr

/-- ASSIGN PRINTER (R108): owner 0 is POOL (R202). -/
structure AssignPrinterFields where
  printer : Nat
  owner : Nat
deriving DecidableEq, Repr

/-- PRINTER HOLD, PRINTER FREE (255 is ALL, R202) and PRINTER RESET (R109, R117). -/
structure PrinterFields where
  printer : Nat
deriving DecidableEq, Repr

/-- One line of a PRINT SUBMIT (R128). -/
structure SubmitLine where
  text : Text
  seq : Option Nat
deriving DecidableEq, Repr

/-- PRINT SUBMIT (R128). -/
structure PrintSubmitFields where
  station : Nat
  book : Text
  lines : List SubmitLine
deriving DecidableEq, Repr

/-- PRINT CANCEL and JOB STATUS (R141, R147). -/
structure JobFields where
  job : Nat
deriving DecidableEq, Repr

/-- CUT ARM (R151). -/
structure CutArmFields where
  mode : Nat
  time : Option Nat
  force : Bool
deriving DecidableEq, Repr

/-- SEND CONFIG (R172). -/
structure SendConfigFields where
  autoStart : Bool
  threshold : Nat
deriving DecidableEq, Repr

/-- READ NOTICES (R192). -/
structure ReadNoticesFields where
  maximum : Nat
deriving DecidableEq, Repr

/-- TIME SET (R194). -/
structure TimeSetFields where
  time : Nat
  date : Nat
deriving DecidableEq, Repr

/-- The levels of the two rate straps as a start reads them; true is high (R200). -/
structure Straps where
  rateB : Bool
  rateA : Bool
deriving DecidableEq, Repr

/-- What a screen's reply carries beside its flags: an input entry, an echo, or neither (11 "Screen line"). -/
inductive ReplyContent where
  | nothing
  | entry (kind : Nat) (bit : Bool) (text : Text)
  | echo (chars : Text)
deriving DecidableEq, Repr

/-- A screen's reply: the station address it names, its update acknowledgement and its content. -/
structure ScreenReply where
  station : Nat
  ack : Bool
  content : ReplyContent
deriving DecidableEq, Repr

/-- The links whose frames R203 judges. -/
inductive LinkPort where
  | screenLine
  | printer (p : Printer)
  | headOffice
deriving DecidableEq, Repr

/-- The commands. -/
inductive Instr where
  | denomSet (r : Req DenomSetFields)
  | openingSet (r : Req OpeningSetFields)
  | dayBegin (r : Req DayBeginFields)
  | dayStatus (r : Req NoFields)
  | journalRead (r : Req JournalReadFields)
  | takeTill (r : Req StationTillFields)
  | releaseTill (r : Req StationTillFields)
  | post (r : Req PostFields)
  | void (r : Req VoidFields)
  | countBegin (r : Req StationTillFields)
  | countDeclare (r : Req CountDeclareFields)
  | countAbandon (r : Req StationTillFields)
  | transferOffer (r : Req TransferOfferFields)
  | transferAccept (r : Req StationTransferFields)
  | transferReject (r : Req StationTransferFields)
  | tillStatus (r : Req TillFields)
  | limitSet (r : Req LimitSetFields)
  | limitClear (r : Req TillFields)
  | limitArm (r : Req TillFields)
  | signOn (r : Req SignOnFields)
  | signOff (r : Req StationFields)
  | stationSetup (r : Req StationSetupFields)
  | stationStatus (r : Req StationFields)
  | display (r : Req DisplayFields)
  | readInput (r : Req ReadInputFields)
  | lineTestStart (r : Req StationFields)
  | lineTestStop (r : Req StationFields)
  | scanSet (r : Req ScanSetFields)
  | scanStatus (r : Req NoFields)
  | assignPrinter (r : Req AssignPrinterFields)
  | printerHold (r : Req PrinterFields)
  | printerFree (r : Req PrinterFields)
  | printerReset (r : Req PrinterFields)
  | printerStatus (r : Req NoFields)
  | printSubmit (r : Req PrintSubmitFields)
  | printCancel (r : Req JobFields)
  | jobStatus (r : Req JobFields)
  | cutArm (r : Req CutArmFields)
  | cutDisarm (r : Req NoFields)
  | cutStatus (r : Req NoFields)
  | sendConfig (r : Req SendConfigFields)
  | sendStart (r : Req NoFields)
  | sendResume (r : Req NoFields)
  | sendRestart (r : Req NoFields)
  | sendStatus (r : Req NoFields)
  | readNotices (r : Req ReadNoticesFields)
  | timeSet (r : Req TimeSetFields)
  | identify (r : Req NoFields)
  | restart (r : Req NoFields)
  /-- A host frame whose length or check is bad (R188, R189). -/
  | hostFrameError
  /-- A good host frame of an unlisted type (R189). -/
  | unknownRequest (type tag : Nat)
  /-- A gap of more than 100 ms inside a host frame (R188). -/
  | hostFrameTimeout
  /-- A frame that begins while the buffer holds one not yet handed over (R188). -/
  | hostFrameOverrun
  /-- Power returns; `intact` says whether record memory kept its content while power was off (R196, R197). -/
  | powerOn (intact : Bool) (straps : Straps)
  | resetAssert
  | resetRelease (straps : Straps)
  /-- The last byte of the RESTART reply has left the line (R197). -/
  | restartBegin (straps : Straps)
  | clockTick
  | transferExpiry (transfer : Nat)
  | transferReturnRetry (transfer : Nat)
  | graceExpiry (station : Station)
  | jobWaitTimeout (job : Nat)
  | probeTimerRunout (printer : Printer)
  | offlineClearInterval (printer : Printer)
  | ackTimeout
  | echoTimeout
  | holdTimeout
  | cutTrigger
  | screenReply (reply : ScreenReply)
  | slotReplyTimeout
  | linkFrameDiscarded (port : LinkPort)
  | linkFrameGapTimeout (port : LinkPort)
  | ready (printer : Printer)
  | bookIn (printer : Printer) (book : Text) (page line : Nat)
  | lineDone (printer : Printer)
  | pageFull (printer : Printer)
  | bookOut (printer : Printer)
  | fault (printer : Printer) (code : Nat)
  | probeReply (printer : Printer)
  | unlistedPrinterMessage (printer : Printer)
  | ack (block : Nat)
  | nak (block : Nat)
  | hold
  | go
  | reject (code : Nat)
  | echo (chars : Text)
  | carrierArrival
  | carrierLoss
  | lossOfMainPower
deriving DecidableEq, Repr

end Sys2Proof
end

