-- ==== Sys2Proof/Machine/State.lean ====
section
/-! DEFINITION. The state of the FB212: one structure per block, the notices and frames it sends, and the part after its first power-on. -/

namespace Sys2Proof.Machine

open Sys2Proof

/-! ### Reply statuses and the fields of replies and notices -/

/-- The statuses of a reply, in the order of their codes (10 "Reply statuses", 11). -/
inductive Status where
  | ok | frameError | unknownRequest | badField | dayUnset | wrongState | notPresent | notHolder | role
  | tillBusy | tillHeld | short | countOverflow | overLimit | underLimit | journalFull | transferPending | tableFull
  | queueFull | notFound | oldDay | lineTaken | inPrint | jobsPending | busy | previousDayUnsent | noCarrier
deriving DecidableEq, Repr

/-! ### The journal -/

/-- Posting kinds, in the order of their codes (R9, 11 "The posting record"). -/
inductive Kind where
  | cashIn | cashOut | delivery | cashReturn | transferOut | transferIn | transferBack | adjust | void | printNote
deriving DecidableEq, Repr

/-- Whether an entry still stands (R12). -/
inductive EntryStatus where
  | live | voided
deriving DecidableEq, Repr

/-- An entry's progress toward the passbook; PRINTED holds the printed day (R9, R12). -/
inductive Passbook where
  | none | pending | printed (day : Nat) | dropped
deriving DecidableEq, Repr

/-- A posting record (R9). Counts and amount are signed because an ADJUST's are (R11). -/
structure Entry where
  seq : Nat
  day : Nat
  time : Nat
  station : Station
  kind : Kind
  till : Till
  till2 : Option Till
  account : Option Text
  breakdown : Option (List (Denom × Int))
  amount : Option Int
  ref : Option Nat
  status : EntryStatus
  passbook : Passbook
  transferId : Option Nat
deriving DecidableEq, Repr

/-! ### Tills -/

/-- R27. -/
inductive TillState where
  | closed | opened | counting | balanced | lapsed
deriving DecidableEq, Repr

/-- The count record of a COUNTING till (R26). -/
structure CountRecord where
  book : Counts
  station : Station
  time : Nat
deriving DecidableEq, Repr

/-- The difference record a count leaves (R26). -/
structure DiffRecord where
  diffs : Vector Int 10
  total : Int
  seq : Nat
  day : Nat
deriving DecidableEq, Repr

/-- A till record (R26). -/
@[ext]
structure TillRec where
  state : TillState
  holder : Option Station
  counts : Counts
  opening : Counts
  count : Option CountRecord
  diff : Option DiffRecord
  unbalanced : Bool
deriving DecidableEq, Repr

/-- A pending-transfer record (R40). -/
structure Transfer where
  id : Nat
  source : Till
  destination : Till
  breakdown : List (Denom × Nat)
  amount : Nat
  station : Station
  offeredTo : Option Station
  outSeq : Nat
  remaining : Nat
  waiting : Bool
deriving DecidableEq, Repr

/-- TLU's records. `denoms` is absent while the set mark is clear (R25). -/
@[ext]
structure Tlu where
  denoms : Option Counts
  tills : Vector TillRec 13
  transfers : List Transfer
  lastTransfer : Nat
  branchOpening : Option Counts
deriving DecidableEq, Repr

/-! ### The business day -/

/-- The class of a till at the cut (R158). -/
inductive TillClass where
  | balanced | closed | unbalanced
deriving DecidableEq, Repr

/-- One entry of the till snapshot (R158). -/
structure TillSnap where
  state : TillState
  holder : Option Station
  counts : Counts
  value : Nat
  opening : Counts
  cls : TillClass
deriving DecidableEq, Repr

/-- One entry of the in-transit snapshot (R158). -/
structure TransitSnap where
  id : Nat
  source : Till
  destination : Till
  breakdown : List (Denom × Nat)
  amount : Nat
  outSeq : Nat
  waiting : Bool
deriving DecidableEq, Repr

/-- The cut record (R4). -/
structure CutRecord where
  day : Nat
  seq : Nat
  time : Nat
  tills : Vector TillSnap 13
  transit : List TransitSnap
deriving DecidableEq, Repr

/-- The day number and branch code, present together from DAY BEGIN on (R1 to R3). -/
structure DayRecord where
  number : Nat
  branch : Text
deriving DecidableEq, Repr

/-- DJU's records. `nextSeq` is one more than the last sequence number given, so it stands above
`Config.lastSeq` when the numbers are exhausted (R13). -/
@[ext]
structure Dju where
  day : Option DayRecord
  journal : List Entry
  nextSeq : Nat
  cutRecord : Option CutRecord
  lowMark : Bool
deriving DecidableEq, Repr

/-! ### Limits -/

inductive Direction where
  | high | low
deriving DecidableEq, Repr

/-- R50; the trip direction is present exactly in TRIPPED (R49). -/
inductive MonitorState where
  | off | watching | tripped (d : Direction)
deriving DecidableEq, Repr

/-- The settings of LIMIT SET (R49). -/
structure Limits where
  lower : Nat
  upper : Nat
  filter : Nat
  enforce : Bool
deriving DecidableEq, Repr

/-- A monitor record (R49). -/
structure Monitor where
  limits : Limits
  state : MonitorState
  streak : Nat
  streakDir : Option Direction
  live : Bool
  pending : Option Limits
deriving DecidableEq, Repr

/-! ### Stations -/

inductive Role where
  | teller | supervisor
deriving DecidableEq, Repr

/-- What a sign-on fixes, and the till held under it (R63). -/
structure SignOn where
  operator : Text
  role : Role
  time : Nat
  held : Option Till
deriving DecidableEq, Repr

/-- The presence state (R64) with what is present in it (R63). -/
inductive Presence where
  | vacant | present | signedOn (o : SignOn) | lost (o : SignOn) (grace : Nat)
deriving DecidableEq, Repr

/-- A screen's setup (R63). -/
structure Setup where
  rows : Nat
  columns : Nat
  charset : Nat
  mask : BitVec 8
deriving DecidableEq, Repr

/-- A station record (R63). -/
@[ext]
structure StationRec where
  presence : Presence
  setup : Setup
deriving DecidableEq, Repr

/-! ### The screen line -/

/-- The indicators, by number (R95). -/
inductive Indicator where
  | tillOpen | tillCounting | limitHigh | limitLow | offerWaiting | insertBook | turnPage | cutArmed
deriving DecidableEq, Repr

/-- A display update (R91). The attribute is NORMAL 0, BRIGHT 1 or BLINK 2 (11 "Screen line"). -/
structure Update where
  row : Nat
  column : Nat
  attr : Nat
  text : Text
deriving DecidableEq, Repr

inductive InputKind where
  | key | field
deriving DecidableEq, Repr

/-- A stored input entry (R93). -/
structure InputEntry where
  kind : InputKind
  text : Text
  time : Nat
deriving DecidableEq, Repr

/-- The full status set of a station (R95). -/
structure StatusSet where
  indicators : BitVec 8
  setup : Setup
deriving DecidableEq, Repr

/-- The input answer, with the entry's bit (R87). -/
inductive InputAnswer where
  | none | taken (bit : Bool) | notTaken (bit : Bool)
deriving DecidableEq, Repr

/-- A line-test record and its pattern generator (R97, R98). -/
structure LineTest where
  running : Bool
  frames : Nat
  errored : Nat
  live : Bool
  sticky : Bool
  generator : BitVec 15
deriving DecidableEq, Repr

/-- What SLC keeps per station. -/
@[ext]
structure LineRec where
  output : List Update
  input : List InputEntry
  slot : Option StatusSet
  answer : InputAnswer
  lastBit : Option Bool
  misses : Nat
  indicators : BitVec 8
  test : LineTest
deriving DecidableEq, Repr

/-- The frame kinds of a slot and what they carry (R86). -/
inductive ScreenBody where
  | poll
  | status (set : StatusSet)
  | update (u : Update)
  | test (chars : Text)
deriving DecidableEq, Repr

/-- The slot in progress (R85). `refilled`: the status slot was filled again since the frame was sent (R96).
`dropped`: a SCAN SET has left the station VACANT outside the range, and its reply is discarded (R100). `stale`: the TEST frame belongs to a
test that has ended (log 17). -/
structure Slot where
  station : Station
  body : ScreenBody
  refilled : Bool
  dropped : Bool
  stale : Bool
deriving DecidableEq, Repr

/-- SLC's records. `walk` holds the stations of the range that the round has not yet reached (R83, R84). -/
@[ext]
structure Slc where
  first : Station
  last : Station
  round : Nat
  walk : List Station
  slot : Option Slot
  lines : Vector LineRec 12
deriving DecidableEq, Repr

/-! ### Printers and print jobs -/

inductive Owner where
  | pool | station (s : Station)
deriving DecidableEq, Repr

/-- R106. -/
inductive Device where
  | offline | idle | waitingBook | printing | pageTurn | fault
deriving DecidableEq, Repr

inductive FaultCode where
  | jam | stripe | mech
deriving DecidableEq, Repr

/-- A printer record (R105). -/
@[ext]
structure PrinterRec where
  owner : Owner
  hold : Bool
  device : Device
  bound : Option Nat
  timer : Nat
  probing : Bool
  misses : Nat
  clears : Nat
  wrongBooks : Nat
  faultCode : Option FaultCode
deriving DecidableEq, Repr

/-- R125. -/
inductive LineState where
  | waiting | sent | printed | skipped
deriving DecidableEq, Repr

/-- The posting a line reports, as noted at submission (R125). -/
structure LinePosting where
  seq : Nat
  till : Till
  day : Nat
deriving DecidableEq, Repr

/-- A line descriptor (R125). -/
structure JobLine where
  text : Text
  posting : Option LinePosting
  state : LineState
  noteSeq : Option Nat
  printedAt : Option (Nat × Nat)
deriving DecidableEq, Repr

/-- R126. -/
inductive JobState where
  | queued | started | printing | pageTurn | done | failed | cancelled
deriving DecidableEq, Repr

/-- R140. -/
inductive Reason where
  | complete | wrongBook | noBook | bookFull | journalFull | printerFault | printerLost | interrupted | host | signedOff
deriving DecidableEq, Repr

/-- A book's page and next free line; no line is the end-of-page mark (R124). -/
structure Place where
  page : Nat
  line : Option Nat
deriving DecidableEq, Repr

/-- A job record (R124). -/
structure Job where
  id : Nat
  station : Station
  book : Text
  lines : List JobLine
  state : JobState
  printer : Option Printer
  next : Nat
  place : Option Place
  wait : Option Nat
  cancelPending : Bool
  printed : Nat
  reason : Option Reason
deriving DecidableEq, Repr

/-- PJQ's records (R124, R127). -/
@[ext]
structure Pjq where
  jobs : List Job
  lastJob : Nat
deriving DecidableEq, Repr

/-! ### The cut -/

inductive CutMode where
  | immediate | atTime | gate
deriving DecidableEq, Repr

inductive ArmState where
  | awaitTrigger | awaitGate
deriving DecidableEq, Repr

/-- The arm record while it is armed (R150). -/
structure Arm where
  state : ArmState
  mode : CutMode
  trigger : Option Nat
  force : Bool
  armedAt : Nat
  triggeredAt : Option Nat
deriving DecidableEq, Repr

/-- What brought a cut (R161). -/
inductive CutCause where
  | forced | gate
deriving DecidableEq, Repr

/-! ### Sending to head office -/

/-- Suspension reasons; REJECTED holds its reject code (R166). -/
inductive SuspendReason where
  | timeout | carrier | linePoor | rejected (code : Nat) | holdLimit | restart
deriving DecidableEq, Repr

inductive SendState where
  | idle | ready | testing | sending | held | suspended (why : SuspendReason)
deriving DecidableEq, Repr

/-- The outstanding batch (R166): day, block count N and oldest unacknowledged block. -/
structure Batch where
  day : Nat
  blocks : Nat
  oldest : Nat
deriving DecidableEq, Repr

/-- The link-test record, its pattern generator and the characters whose echo is awaited (R175). -/
@[ext]
structure LinkTest where
  frames : Nat
  errored : Nat
  live : Bool
  sticky : Bool
  echoTimer : Option Nat
  result : Option Bool
  generator : BitVec 15
  chars : Text
deriving DecidableEq, Repr

/-- HOS's records (R166). The window holds (block number, retry count) pairs. -/
@[ext]
structure Hos where
  state : SendState
  batch : Option Batch
  next : Option Nat
  window : List (Nat × Nat)
  ackTimer : Option Nat
  holdTimer : Option Nat
  autoStart : Bool
  threshold : Nat
  test : LinkTest
deriving DecidableEq, Repr

/-- A block of the batch, as HOS builds it (R169 to R171). -/
inductive BlockBody where
  | header (cutSeq cutTime p n : Nat)
  | postings (entries : List Entry)
  | tills (first : Nat) (snaps : List TillSnap)
  | transit (snaps : List TransitSnap)
  | trailer (records : Nat) (cashIn cashOut : Int) (position : Counts)
deriving DecidableEq, Repr

structure Block where
  branch : Text
  day : Nat
  number : Nat
  body : BlockBody
deriving DecidableEq, Repr

/-! ### Notices -/

inductive StartKind where
  | cold | restart
deriving DecidableEq, Repr

inductive StartCause where
  | powerOn | resetLine | request
deriving DecidableEq, Repr

/-- R1. -/
inductive DayState where
  | unset | opened | armed
deriving DecidableEq, Repr

/-- The further item of SEND_SUSPENDED (R182). -/
inductive SuspendItem where
  | block (number : Nat) (byNak : Bool)
  | errored (count : Nat)
  | code (reject : Nat)
  | nothing
deriving DecidableEq, Repr

/-- The notices and their fields (10 "The notice queue and ATTN"), in the order of their codes (R202). -/
inductive Notice where
  | start (kind : StartKind) (cause : StartCause) (clockValid : Bool) (day : DayState) (number : Option Nat)
      (cutRecord : Bool) (send : SendState)
  | stationPresent (station : Station)
  | stationAbsent (station : Station)
  | stationLost (station : Station) (operator : Text) (held : Option Till) (grace : Nat) (byRestart : Bool)
  | stationReturned (station : Station) (operator : Text) (held : Option Till) (run : Nat)
  | signoffForced (station : Station) (operator : Text) (role : Role) (lapsed : Option Till) (cancelled : Nat)
      (running : List Nat)
  | inputReady (station : Station)
  | limitTrip (till : Till) (direction : Direction) (value lower upper filter : Nat) (holder : Option Station) (seq : Nat)
  | transferExpired (id : Nat) (source destination : Till) (amount : Nat) (seq : Nat)
  | bookIn (job : Nat) (station : Station) (printer : Printer) (page line : Nat)
  | jobEnded (job : Nat) (station : Station) (state : JobState) (reason : Reason) (printed : Nat)
      (printer : Option Printer) (place : Option Place)
  | printerFault (printer : Printer) (code : FaultCode) (job : Option Nat)
  | printerOnline (printer : Printer) (owner : Owner)
  | printerOffline (printer : Printer) (restarted : Bool) (job : Option Nat)
  | cutDone (day newDay cutSeq cutTime count : Nat) (balanced closed unbalanced : Nat) (tills : List Till)
      (transit : Nat) (cause : CutCause)
  | sendSuspended (why : SuspendReason) (day blocks oldest : Nat) (item : SuspendItem)
  | sendDone (day blocks removed free : Nat)
  | journalLow (free day : Nat) (cutRecord : Bool)
deriving DecidableEq, Repr

/-- A notice with the time of day at which it was raised (10). -/
structure Raised where
  time : Nat
  notice : Notice
deriving DecidableEq, Repr

/-! ### What the part sends -/

/-- One field of a reply or a notice, in the forms of R202: an unsigned number or a two's-complement number of
`width` bytes, bytes as they stand, a posting record, or a notice. -/
inductive Item where
  | num (width n : Nat)
  | int (width : Nat) (z : Int)
  | raw (bytes : Text)
  | posting (e : Entry)
  | notice (r : Raised)
deriving DecidableEq, Repr

/-- A reply frame (R190): its type, the tag echoed, the status and the items after it. -/
structure Reply where
  type : Nat
  tag : Nat
  status : Status
  items : List Item
deriving DecidableEq, Repr

/-- The messages PRC sends (R110). -/
inductive PrinterMessage where
  | showInsert (book : Text)
  | printLine (line : Nat) (text : Text)
  | writeStripe (page line : Nat)
  | eject
  | clear
  | probe
deriving DecidableEq, Repr

/-- What the part puts on a port: a reply on the host link, a frame on the screen line with its input answer, a
message on a printer port, a block or a TEST frame on the head-office link. -/
inductive Sent where
  | reply (r : Reply)
  | screen (station : Station) (body : ScreenBody) (answer : InputAnswer)
  | printer (p : Printer) (m : PrinterMessage)
  | block (b : Block)
  | test (chars : Text)
deriving DecidableEq, Repr

/-! ### The host link -/

/-- How HLC receives (R188): hunting for a sync byte, gathering a frame, or discarding one that the full buffer has no
room for, with `left` characters still to come. -/
inductive Receive where
  | hunting
  | gathering (got : Text)
  | discarding (got : Text)
deriving DecidableEq, Repr

/-- How the part receives a link's frames (R203): hunting for the link's start byte, or gathering the bytes after it. -/
inductive LinkReceive where
  | hunting
  | gathering (got : Text)
deriving DecidableEq, Repr

/-- The receivers of the screen line, the printer ports and the head-office link (R203). -/
@[ext]
structure Links where
  screenLine : LinkReceive
  printers : Vector LinkReceive 4
  headOffice : LinkReceive
deriving DecidableEq, Repr

/-- The clock (R193). -/
@[ext]
structure Clock where
  time : Nat
  date : Nat
  valid : Bool
deriving DecidableEq, Repr

/-- The host-link rates (R200). -/
inductive Rate where
  | r19200 | r38400 | r57600 | r115200
deriving DecidableEq, Repr

/-- HLC's records. `restarting`: the RESTART request has been answered and its restart has not yet begun (R197). -/
@[ext]
structure Hlc where
  receive : Receive
  buffer : Option Text
  notices : List Raised
  overflow : Bool
  clock : Clock
  rate : Rate
  startKind : StartKind
  startCause : StartCause
  restarting : Bool
deriving DecidableEq, Repr

/-- RCM: whether the stored check word matches the content it stands over (R196, log 11). -/
structure Rcm where
  matching : Bool
deriving DecidableEq, Repr

/-- Power and input pins: main power, RESET_N held low (log 9), HO_DCD (10 "Pins and rate straps"). -/
structure Pins where
  powered : Bool
  resetHeld : Bool
  carrier : Bool
deriving DecidableEq, Repr

/-- The state of the part. `pending`, `sent` and `ticks` are the model's own: the commands waiting (log 1), what the
last command put on the ports (log 7), and the number of ticks that have reached the blocks (log 4). -/
@[ext]
structure State where
  pending : List Instr
  sent : List Sent
  ticks : Nat
  pins : Pins
  links : Links
  rcm : Rcm
  hlc : Hlc
  dju : Dju
  tlu : Tlu
  lmu : Vector Monitor 13
  stu : Vector StationRec 12
  slc : Slc
  prc : Vector PrinterRec 4
  pjq : Pjq
  cut : Option Arm
  hos : Hos
deriving DecidableEq, Repr

/-- The part stops for nothing: the spec gives no command that halts it, so there is no fault. -/
inductive Fault where
deriving DecidableEq, Repr

/-- Why a command has no meaning. -/
inductive Refusal where
  /-- Raised only by an arm of `exec` whose command has not been modelled yet. Safe: nothing is claimed of it. -/
  | notModelled (mnemonic : String)
deriving DecidableEq, Repr

/-! ### The part after a cold start -/

/-- DJU after a cold start (R23). -/
def Dju.cold : Dju := { day := none, journal := [], nextSeq := 1, cutRecord := none, lowMark := false }

/-- A till after a cold start (R48). -/
def TillRec.cold : TillRec :=
  { state := .closed, holder := none, counts := Vector.replicate 10 0, opening := Vector.replicate 10 0,
    count := none, diff := none, unbalanced := false }

/-- TLU after a cold start (R48). -/
def Tlu.cold : Tlu :=
  { denoms := none, tills := Vector.replicate 13 TillRec.cold, transfers := [], lastTransfer := 0, branchOpening := none }

/-- A monitor after a cold start (R62). -/
def Monitor.cold : Monitor :=
  { limits := { lower := 0, upper := 0, filter := 0, enforce := false }, state := .off, streak := 0, streakDir := none,
    live := false, pending := none }

/-- A station after a cold start (R81). -/
def StationRec.cold : StationRec :=
  { presence := .vacant, setup := { rows := 25, columns := 80, charset := 0, mask := 0xFF } }

/-- A line test after any start (R103); the generator's value before a test is the model's choice (log 8). -/
def LineTest.cold : LineTest :=
  { running := false, frames := 0, errored := 0, live := false, sticky := false, generator := BitVec.allOnes 15 }

/-- SLC's record of a station after a cold start (R103). -/
def LineRec.cold : LineRec :=
  { output := [], input := [], slot := none, answer := .none, lastBit := none, misses := 0, indicators := 0,
    test := LineTest.cold }

/-- SLC after a cold start (R103), with the first slot of the first round, station 1's POLL, under way (R84, R86). -/
def Slc.cold : Slc :=
  { first := 0, last := 11, round := 0, walk := [1, 2, 3, 4, 5, 6, 7, 8, 9, 10, 11],
    slot := some { station := 0, body := .poll, refilled := false, dropped := false, stale := false },
    lines := Vector.replicate 12 LineRec.cold }

/-- A printer after a cold start (R122). -/
def PrinterRec.cold : PrinterRec :=
  { owner := .pool, hold := false, device := .offline, bound := none, timer := Config.probeTime, probing := false,
    misses := 0, clears := 0, wrongBooks := 0, faultCode := none }

/-- The link-test record after any start (R186); the generator and the awaited characters before a test are the
model's choice (log 8). -/
def LinkTest.cold : LinkTest :=
  { frames := 0, errored := 0, live := false, sticky := false, echoTimer := none, result := none,
    generator := BitVec.allOnes 15, chars := [] }

/-- HOS after a cold start (R186). -/
def Hos.cold : Hos :=
  { state := .idle, batch := none, next := none, window := [], ackTimer := none, holdTimer := none,
    autoStart := false, threshold := 0, test := LinkTest.cold }

/-- Every receiver hunts (R203). -/
def Links.hunting : Links := { screenLine := .hunting, printers := Vector.replicate 4 .hunting, headOffice := .hunting }

/-- HLC after a cold start at power-on (R199), with the straps selecting `rate`. -/
def Hlc.cold (rate : Rate) : Hlc :=
  { receive := .hunting, buffer := none,
    notices := [{ time := 0, notice := .start .cold .powerOn false .unset none false .idle }],
    overflow := false, clock := { time := 0, date := 0, valid := false }, rate := rate,
    startKind := .cold, startCause := .powerOn, restarting := false }

/-- The part after its first power-on: a cold start (R197), both straps low and no carrier (log 8). -/
def State.reset : State :=
  { pending := [], sent := [.screen 0 .poll .none], ticks := 0,
    pins := { powered := true, resetHeld := false, carrier := false }, links := Links.hunting,
    rcm := { matching := true },
    hlc := Hlc.cold .r19200, dju := Dju.cold, tlu := Tlu.cold, lmu := Vector.replicate 13 Monitor.cold,
    stu := Vector.replicate 12 StationRec.cold, slc := Slc.cold, prc := Vector.replicate 4 PrinterRec.cold,
    pjq := { jobs := [], lastJob := 0 }, cut := none, hos := Hos.cold }

end Sys2Proof.Machine
end

