-- ==== Sys2Proof/Machine/Codes.lean ====
section
/-! DEFINITION. The field forms of replies and notices and the codes of their lists (R201, R202, 11). A value chosen from a list is
coded by its position, from 1, in the list in which its chapter first gives it, unless chapter 11 gives codes of its own. -/

namespace Sys2Proof.Machine

open Sys2Proof

/-! ### Field forms (R202) -/

def u8 (n : Nat) : Item := .num 1 n
def u16 (n : Nat) : Item := .num 2 n
def u32 (n : Nat) : Item := .num 4 n
def u64 (n : Nat) : Item := .num 8 n

/-- A flag, or an item reported present or absent: 1 or 0 (R202). -/
def flag (b : Bool) : Item := .num 1 (if b then 1 else 0)

/-- A text: its length and its characters, filled with zero bytes to `width` (R201). -/
def textItem (width : Nat) (t : Text) : Item :=
  .raw (BitVec.ofNat 8 t.length :: t ++ List.replicate (width - t.length) 0)

/-- A list of items: its count and then the items (R202). -/
def listOf {α : Type} (xs : List α) (f : α → List Item) : List Item := u8 xs.length :: (xs.map f).flatten

/-- A field that may be absent: a presence byte and then the field, or zero bytes at its full width (R201, R202). -/
def optItem {α : Type} (o : Option α) (blank : Item) (f : α → Item) : List Item :=
  match o with
  | some a => [flag true, f a]
  | none => [flag false, blank]

def optNum (width : Nat) (o : Option Nat) : List Item := optItem o (.num width 0) (.num width)

/-- Ten values, one per denomination: a pair count and (denomination, value) pairs in ascending order (R202). -/
def ten (v : Counts) : List Item :=
  u8 10 :: ((List.finRange 10).map fun d => [u8 d.val, u32 v[d]]).flatten

/-- Ten signed values (R201, R202). -/
def tenInt (v : Vector Int 10) : List Item :=
  u8 10 :: ((List.finRange 10).map fun d => [u8 d.val, Item.int 4 v[d]]).flatten

/-- Ten values that may be absent; absent, all zero bytes at full width (R201, R202). -/
def optTen (o : Option Counts) : List Item :=
  match o with
  | some c => flag true :: ten c
  | none => [flag false, .raw (List.replicate 51 0)]

def optTenInt (o : Option (Vector Int 10)) : List Item :=
  match o with
  | some c => flag true :: tenInt c
  | none => [flag false, .raw (List.replicate 51 0)]

def optInt (width : Nat) (o : Option Int) : List Item := optItem o (.num width 0) (.int width)

/-- A breakdown: a pair count and its pairs (R202). -/
def breakdownItems (b : List (Denom × Nat)) : List Item := listOf b fun p => [u8 p.1.val, u32 p.2]

/-! ### Codes -/

/-- 11 "The host frame". -/
def Status.code : Status → Nat
  | .ok => 0x00 | .frameError => 0x01 | .unknownRequest => 0x02 | .badField => 0x03 | .dayUnset => 0x04
  | .wrongState => 0x05 | .notPresent => 0x06 | .notHolder => 0x07 | .role => 0x08 | .tillBusy => 0x09
  | .tillHeld => 0x0A | .short => 0x0B | .countOverflow => 0x0C | .overLimit => 0x0D | .underLimit => 0x0E
  | .journalFull => 0x0F | .transferPending => 0x10 | .tableFull => 0x11 | .queueFull => 0x12 | .notFound => 0x13
  | .oldDay => 0x14 | .lineTaken => 0x15 | .inPrint => 0x16 | .jobsPending => 0x17 | .busy => 0x18
  | .previousDayUnsent => 0x19 | .noCarrier => 0x1A

/-- 11 "The posting record". -/
def Kind.code : Kind → Nat
  | .cashIn => 1 | .cashOut => 2 | .delivery => 3 | .cashReturn => 4 | .transferOut => 5 | .transferIn => 6
  | .transferBack => 7 | .adjust => 8 | .void => 9 | .printNote => 10

/-- R1. -/
def DayState.code : DayState → Nat
  | .unset => 1 | .opened => 2 | .armed => 3

/-- R26, and 11 "Head-office link". -/
def TillState.code : TillState → Nat
  | .closed => 1 | .opened => 2 | .counting => 3 | .balanced => 4 | .lapsed => 5

/-- 11 "Head-office link". -/
def TillClass.code : TillClass → Nat
  | .balanced => 1 | .closed => 2 | .unbalanced => 3

/-- R49. -/
def Direction.code : Direction → Nat
  | .high => 1 | .low => 2

/-- R49. -/
def MonitorState.code : MonitorState → Nat
  | .off => 1 | .watching => 2 | .tripped _ => 3

/-- R63. -/
def Role.code : Role → Nat
  | .teller => 1 | .supervisor => 2

/-- R63. -/
def Presence.code : Presence → Nat
  | .vacant => 1 | .present => 2 | .signedOn _ => 3 | .lost _ _ => 4

/-- R105. -/
def Device.code : Device → Nat
  | .offline => 1 | .idle => 2 | .waitingBook => 3 | .printing => 4 | .pageTurn => 5 | .fault => 6

/-- R105, and 11 "Printer ports". -/
def FaultCode.code : FaultCode → Nat
  | .jam => 1 | .stripe => 2 | .mech => 3

/-- POOL is 0, a station its number (R202). -/
def Owner.code : Owner → Nat
  | .pool => 0 | .station s => stationNo s

/-- R125. -/
def LineState.code : LineState → Nat
  | .waiting => 1 | .sent => 2 | .printed => 3 | .skipped => 4

/-- R124. -/
def JobState.code : JobState → Nat
  | .queued => 1 | .started => 2 | .printing => 3 | .pageTurn => 4 | .done => 5 | .failed => 6 | .cancelled => 7

/-- R140. -/
def Reason.code : Reason → Nat
  | .complete => 1 | .wrongBook => 2 | .noBook => 3 | .bookFull => 4 | .journalFull => 5 | .printerFault => 6
  | .printerLost => 7 | .interrupted => 8 | .host => 9 | .signedOff => 10

/-- R150: UNARMED is 1. -/
def ArmState.code : ArmState → Nat
  | .awaitTrigger => 2 | .awaitGate => 3

def armCode : Option Arm → Nat
  | none => 1
  | some a => a.state.code

/-- R150. -/
def CutMode.code : CutMode → Nat
  | .immediate => 1 | .atTime => 2 | .gate => 3

/-- R161. -/
def CutCause.code : CutCause → Nat
  | .forced => 1 | .gate => 2

/-- R166. -/
def SuspendReason.code : SuspendReason → Nat
  | .timeout => 1 | .carrier => 2 | .linePoor => 3 | .rejected _ => 4 | .holdLimit => 5 | .restart => 6

/-- R166. -/
def SendState.code : SendState → Nat
  | .idle => 1 | .ready => 2 | .testing => 3 | .sending => 4 | .held => 5 | .suspended _ => 6

/-- R175: PASS, FAIL or none. -/
def resultCode : Option Bool → Nat
  | some true => 1 | some false => 2 | none => 3

/-- R198. -/
def StartKind.code : StartKind → Nat
  | .cold => 1 | .restart => 2

/-- R198. -/
def StartCause.code : StartCause → Nat
  | .powerOn => 1 | .resetLine => 2 | .request => 3

/-- R195: the rates in the order the rule gives them (log 15). -/
def Rate.code : Rate → Nat
  | .r19200 => 1 | .r38400 => 2 | .r57600 => 3 | .r115200 => 4

/-- R93, and 11 "Screen line". -/
def InputKind.code : InputKind → Nat
  | .key => 1 | .field => 2

/-- R95. -/
def Indicator.bit : Indicator → Nat
  | .tillOpen => 0 | .tillCounting => 1 | .limitHigh => 2 | .limitLow => 3 | .offerWaiting => 4 | .insertBook => 5
  | .turnPage => 6 | .cutArmed => 7

/-- The codes of the notice kinds (R202). -/
def Notice.code : Notice → Nat
  | .start .. => 1 | .stationPresent .. => 2 | .stationAbsent .. => 3 | .stationLost .. => 4 | .stationReturned .. => 5
  | .signoffForced .. => 6 | .inputReady .. => 7 | .limitTrip .. => 8 | .transferExpired .. => 9 | .bookIn .. => 10
  | .jobEnded .. => 11 | .printerFault .. => 12 | .printerOnline .. => 13 | .printerOffline .. => 14 | .cutDone .. => 15
  | .sendSuspended .. => 16 | .sendDone .. => 17 | .journalLow .. => 18

/-! ### Sizes of what must fit a reply's room (R21, R94, R192) -/

def optStation (o : Option Station) : List Item := optNum 1 (o.map stationNo)
def optTill (o : Option Till) : List Item := optNum 1 (o.map (·.val))

/-- A line number; the end-of-page mark has no code in the spec (log 13). -/
def lineItem (p : Place) : Item := match p.line with | some l => u8 l | none => .raw [Config.endOfPageByte]

/-- The page and line of a job, each present from the first right book on (R124). -/
def placeItems (o : Option Place) : List Item := optItem o (u8 0) (fun p => u8 p.page) ++ optItem o (u8 0) lineItem

/-- The further item of SEND_SUSPENDED by its reason (R182): each of its fields is present in one case. -/
def SuspendItem.items (i : SuspendItem) : List Item :=
  let field (w : Nat) (o : Option Nat) := optNum w o
  match i with
  | .block n byNak => field 2 (some n) ++ field 1 (some (if byNak then 1 else 2)) ++ field 1 none ++ field 1 none
  | .errored n => field 2 none ++ field 1 none ++ field 1 (some n) ++ field 1 none
  | .code n => field 2 none ++ field 1 none ++ field 1 none ++ field 1 (some n)
  | .nothing => field 2 none ++ field 1 none ++ field 1 none ++ field 1 none

/-- The fields of a notice, in the order its rule names them (R202). -/
def Notice.items : Notice → List Item
  | .start kind cause valid day number cut send =>
    [u8 kind.code, u8 cause.code, flag valid, u8 day.code] ++ optNum 2 number ++ [flag cut, u8 send.code]
  | .stationPresent s => [u8 (stationNo s)]
  | .stationAbsent s => [u8 (stationNo s)]
  | .stationLost s op held grace byRestart =>
    [u8 (stationNo s), textItem 8 op] ++ optTill held ++ [u16 grace, u8 (if byRestart then 2 else 1)]
  | .stationReturned s op held run => [u8 (stationNo s), textItem 8 op] ++ optTill held ++ [u16 run]
  | .signoffForced s op role lapsed cancelled running =>
    [u8 (stationNo s), textItem 8 op, u8 role.code] ++ optTill lapsed ++ [u8 cancelled] ++ listOf running fun j => [u8 j]
  | .inputReady s => [u8 (stationNo s)]
  | .limitTrip till dir value lower upper filter holder seq =>
    [u8 till.val, u8 dir.code, u64 value, u64 lower, u64 upper, u8 filter] ++ optStation holder ++ [u32 seq]
  | .transferExpired id src dst amount seq => [u8 id, u8 src.val, u8 dst.val, u64 amount, u32 seq]
  | .bookIn job s p page line => [u8 job, u8 (stationNo s), u8 p.val, u8 page, u8 line]
  | .jobEnded job s st reason printed p place =>
    [u8 job, u8 (stationNo s), u8 st.code, u8 reason.code, u8 printed] ++ optNum 1 (p.map (·.val)) ++ placeItems place
  | .printerFault p code job => [u8 p.val, u8 code.code] ++ optNum 1 job
  | .printerOnline p owner => [u8 p.val, u8 owner.code]
  | .printerOffline p restarted job => [u8 p.val, u8 (if restarted then 2 else 1)] ++ optNum 1 job
  | .cutDone day new cseq ctime count bal clo unb tills transit cause =>
    [u16 day, u16 new, u32 cseq, u32 ctime, u16 count, u8 bal, u8 clo, u8 unb] ++
      listOf tills (fun t => [u8 t.val]) ++ [u8 transit, u8 cause.code]
  | .sendSuspended why day blocks oldest item =>
    [u8 why.code, u16 day, u16 blocks, u16 oldest] ++ item.items
  | .sendDone day blocks removed free => [u16 day, u16 blocks, u16 removed, u16 free]
  | .journalLow free day cut => [u16 free, u16 day, flag cut]

/-- The bytes of a field that holds no posting record and no notice. -/
def Item.plainSize : Item → Nat
  | .num w _ => w
  | .int w _ => w
  | .raw b => b.length
  | .posting _ => 0
  | .notice _ => 0

/-- The bytes of a posting record: 52 and 5 for each pair (11 "The posting record"). -/
def Entry.size (e : Entry) : Nat := 52 + 5 * (e.breakdown.getD []).length

/-- The bytes of a notice: kind, time, length and fields (11 "The host frame"). -/
def Raised.size (r : Raised) : Nat := 6 + (r.notice.items.map Item.plainSize).sum

/-- The bytes of an input entry: kind, text of 64, time (R93, R202). -/
def InputEntry.items (e : InputEntry) : List Item := [u8 e.kind.code, textItem 64 e.text, u32 e.time]
def InputEntry.size (e : InputEntry) : Nat := (e.items.map Item.plainSize).sum

/-- How many of `sizes`, taken in order, fit whole into `room` bytes: each is added only if it fits in the room left. -/
def fitting : Nat → List Nat → Nat
  | _, [] => 0
  | room, n :: rest => if n ≤ room then 1 + fitting (room - n) rest else 0

end Sys2Proof.Machine
end

