-- ==== Sys2Proof/Machine/Operands.lean ====
section
/-! DEFINITION. What the fields of a request must be: ranges, character sets, breakdowns and ten-value lists. -/

namespace Sys2Proof.Machine

open Sys2Proof

/-- A request's answer: the status of the first check that fails, or the state after it and the items of its reply (R190). -/
abbrev Answer := Except Status (State × List Item)

/-- One check of an owning rule: it fails with `e` unless `c` holds. -/
def need (c : Prop) [Decidable c] (e : Status) : Except Status Unit := if c then .ok () else .error e

/-- What a check names, or its status. -/
def require {α : Type} (o : Option α) (e : Status) : Except Status α :=
  match o with
  | some a => .ok a
  | none => .error e

/-- Stations are numbered 1 to 12. -/
def station? (n : Nat) : Option Station := if h : 1 ≤ n ∧ n ≤ 12 then some ⟨n - 1, by omega⟩ else none

/-- Tills are numbered 0 to 12. -/
def till? (n : Nat) : Option Till := if h : n < 13 then some ⟨n, h⟩ else none

/-- Printers are numbered 0 to 3. -/
def printer? (n : Nat) : Option Printer := if h : n < 4 then some ⟨n, h⟩ else none

/-- The character sets (R79). -/
def inCharset (set : Nat) (b : Byte) : Bool :=
  let n := b.toNat
  match set with
  | 0 => 0x20 ≤ n && n ≤ 0x7E
  | 1 => (0x20 ≤ n && n ≤ 0x7E) || 0xA0 ≤ n
  | 2 => 0x20 ≤ n && n ≤ 0x5F
  | 3 => (0x20 ≤ n && n ≤ 0x7E) || 0x80 ≤ n
  | _ => false

/-- A text of `lo` to `hi` characters of a character set. -/
def textOk (set lo hi : Nat) (t : Text) : Bool := lo ≤ t.length && t.length ≤ hi && t.all (inCharset set)

/-- Six decimal digits (R3). -/
def branchOk (t : Text) : Bool := t.length == 6 && t.all fun b => 0x30 ≤ b.toNat && b.toNat ≤ 0x39

/-- No number stands twice. -/
def distinct : List Nat → Bool
  | [] => true
  | x :: xs => !xs.contains x && distinct xs

/-- The pairs in ascending denomination order (R11). -/
def sortPairs (pairs : List (Nat × Nat)) : List (Denom × Nat) :=
  (List.finRange 10).filterMap fun d => (pairs.lookup d.val).map fun c => (d, c)

/-- A well-formed breakdown: 1 to 10 pairs, each denomination 0 to 9 and named once, each count 1 to 65535 (R31);
its pairs in ascending order. -/
def breakdown? (pairs : List (Nat × Nat)) : Option (List (Denom × Nat)) :=
  if 1 ≤ pairs.length && pairs.length ≤ 10 && distinct (pairs.map (·.1)) &&
      pairs.all fun p => p.1 < 10 && 1 ≤ p.2 && p.2 ≤ Config.maxCount then
    some (sortPairs pairs)
  else none

/-- Ten values that name each of the denominations 0 to 9 exactly once, each from `lo` to `hi` (R5, R6, R37). -/
def tenValues? (lo hi : Nat) (pairs : List (Nat × Nat)) : Option Counts :=
  if pairs.length == 10 && distinct (pairs.map (·.1)) && pairs.all fun p => p.1 < 10 && lo ≤ p.2 && p.2 ≤ hi then
    some (Vector.ofFn fun d => (pairs.lookup d.val).getD 0)
  else none

/-- The count a breakdown names for a denomination. -/
def countOf (b : List (Denom × Nat)) (d : Denom) : Nat := (b.lookup d).getD 0

/-- The amount of a breakdown: the sum of count times face value (R11). -/
def amountOf (faces : Counts) (b : List (Denom × Nat)) : Nat := (b.map fun p => p.2 * faces[p.1]).sum

/-- The value of counts: the sum over the ten denominations of count times face value (R25). -/
def valueOf (faces counts : Counts) : Nat := ((List.finRange 10).map fun d => counts[d] * faces[d]).sum

def addCounts (v : Counts) (b : List (Denom × Nat)) : Counts := Vector.ofFn fun d => v[d] + countOf b d
def subCounts (v : Counts) (b : List (Denom × Nat)) : Counts := Vector.ofFn fun d => v[d] - countOf b d

/-- No count would rise above 65535. -/
def fitsIn (v : Counts) (b : List (Denom × Nat)) : Bool :=
  (List.finRange 10).all fun d => v[d] + countOf b d ≤ Config.maxCount

/-- No count would fall below 0. -/
def covers (v : Counts) (b : List (Denom × Nat)) : Bool := (List.finRange 10).all fun d => countOf b d ≤ v[d]

/-- The pairs of a breakdown as a posting record holds them. -/
def signedPairs (b : List (Denom × Nat)) : List (Denom × Int) := b.map fun p => (p.1, (p.2 : Int))

/-- A posting record's pairs back as counts: those of every kind but ADJUST are 1 to 65535 (R11). -/
def plainPairs (b : List (Denom × Int)) : List (Denom × Nat) := b.map fun p => (p.1, p.2.toNat)

end Sys2Proof.Machine
end

