-- ==== Sys2Proof/Machine/Ops.lean ====
section
/-! DEFINITION. The operations every block uses: the records' accessors, the clock, notices, the journal, and the taking of a
request or an event. -/

namespace Sys2Proof.Machine

open Sys2Proof

abbrev Result := Host.Outcome State Fault Refusal

namespace State

/-! ### Records -/

def till (s : State) (t : Till) : TillRec := s.tlu.tills[t]
def setTill (s : State) (t : Till) (r : TillRec) : State := { s with tlu := { s.tlu with tills := s.tlu.tills.set t r } }
def setTransfers (s : State) (ts : List Transfer) : State := { s with tlu := { s.tlu with transfers := ts } }
def monitor (s : State) (t : Till) : Monitor := s.lmu[t]
def setMonitor (s : State) (t : Till) (m : Monitor) : State := { s with lmu := s.lmu.set t m }
def station (s : State) (st : Station) : StationRec := s.stu[st]
def setStation (s : State) (st : Station) (r : StationRec) : State := { s with stu := s.stu.set st r }
def setPresence (s : State) (st : Station) (p : Presence) : State := s.setStation st { s.station st with presence := p }
def line (s : State) (st : Station) : LineRec := s.slc.lines[st]
def setLine (s : State) (st : Station) (l : LineRec) : State := { s with slc := { s.slc with lines := s.slc.lines.set st l } }
def printer (s : State) (p : Printer) : PrinterRec := s.prc[p]
def setPrinter (s : State) (p : Printer) (r : PrinterRec) : State := { s with prc := s.prc.set p r }
def setJobs (s : State) (js : List Job) : State := { s with pjq := { s.pjq with jobs := js } }

/-- How the part receives at a link's port (R203). -/
def receiver (s : State) (port : LinkPort) : LinkReceive :=
  match port with
  | .screenLine => s.links.screenLine
  | .printer p => s.links.printers[p]
  | .headOffice => s.links.headOffice

def setReceiver (s : State) (port : LinkPort) (r : LinkReceive) : State :=
  match port with
  | .screenLine => { s with links := { s.links with screenLine := r } }
  | .printer p => { s with links := { s.links with printers := s.links.printers.set p r } }
  | .headOffice => { s with links := { s.links with headOffice := r } }

/-! ### Presence -/

def presence (s : State) (st : Station) : Presence := (s.station st).presence

/-- The sign-on of a SIGNED_ON or LOST station (R63). -/
def signOn? (s : State) (st : Station) : Option SignOn :=
  match s.presence st with
  | .signedOn o => some o
  | .lost o _ => some o
  | _ => none

/-- The sign-on of a SIGNED_ON station; a LOST one is not signed on (R64). -/
def atWork? (s : State) (st : Station) : Option SignOn :=
  match s.presence st with
  | .signedOn o => some o
  | _ => none

/-- SLC counts a station present while it is PRESENT or SIGNED_ON (R84, R101). -/
def countedPresent (s : State) (st : Station) : Bool :=
  match s.presence st with
  | .present => true
  | .signedOn _ => true
  | _ => false

/-- The till a station holds (R63). -/
def held (s : State) (st : Station) : Option Till := (s.signOn? st).bind (·.held)

/-- Writes the station's held till, STU's side of a hold (R26, R63). -/
def setHeld (s : State) (st : Station) (h : Option Till) : State :=
  match s.presence st with
  | .signedOn o => s.setPresence st (.signedOn { o with held := h })
  | .lost o g => s.setPresence st (.lost { o with held := h } g)
  | _ => s

/-! ### Power, clock, ports -/

/-- The blocks run: main power is present and RESET is not held (R193, R197). -/
def live (s : State) : Bool := s.pins.powered && !s.pins.resetHeld

/-- HLC takes requests: the part runs and no restart has been asked (R197, log 10). -/
def listening (s : State) : Bool := s.live && !s.hlc.restarting

/-- The time of day a block reads: 0 while the clock is invalid (R193). -/
def now (s : State) : Nat := if s.hlc.clock.valid then s.hlc.clock.time else 0

/-- Nothing sent yet in this command (log 7). -/
def quiet (s : State) : State := { s with sent := [] }

def emit (s : State) (x : Sent) : State := { s with sent := s.sent ++ [x] }
def emitTo (s : State) (p : Printer) (m : PrinterMessage) : State := s.emit (.printer p m)

/-- ATTN is asserted exactly while the notice queue holds a notice (R191). -/
def attn (s : State) : Bool := !s.hlc.notices.isEmpty

/-- A notice joins the queue, or is discarded at a full queue with the overflow flag set (R191). -/
def raise (s : State) (n : Notice) : State :=
  if s.hlc.notices.length < Config.noticeCapacity then
    { s with hlc := { s.hlc with notices := s.hlc.notices ++ [{ time := s.now, notice := n }] } }
  else { s with hlc := { s.hlc with overflow := true } }

/-! ### The business day and the journal -/

/-- R1: ARMED exactly while CUT's arm record is armed. -/
def dayState (s : State) : DayState :=
  match s.dju.day, s.cut with
  | none, _ => .unset
  | some _, none => .opened
  | some _, some _ => .armed

/-- The current day number; 0 stands for its absence, which no entry or notice ever carries (R2). -/
def dayNumber (s : State) : Nat :=
  match s.dju.day with
  | some d => d.number
  | none => 0

/-- R8. -/
def free (s : State) : Nat := Config.journalCapacity - s.dju.journal.length

/-- R13. -/
def exhausted (s : State) : Bool := Config.lastSeq < s.dju.nextSeq

/-- Room for a customer entry (R15). -/
def customerRoom (s : State) : Bool := Config.lateMargin < s.free && !s.exhausted

/-- Room for a margin entry (R15). -/
def marginRoom (s : State) : Bool := 1 ≤ s.free && !s.exhausted

def entry? (s : State) (seq : Nat) : Option Entry := s.dju.journal.find? fun e => e.seq == seq

/-- Changes an entry still held; nothing when it has left the journal (R12, R20). -/
def setEntry (s : State) (seq : Nat) (f : Entry → Entry) : State :=
  { s with dju := { s.dju with journal := s.dju.journal.map fun e => if e.seq == seq then f e else e } }

def setPassbook (s : State) (seq : Nat) (p : Passbook) : State := s.setEntry seq fun e => { e with passbook := p }

/-- A posting of a line that does not print goes from PENDING back to NONE (R140). -/
def freePassbook (s : State) (seq : Nat) : State :=
  s.setEntry seq fun e => match e.passbook with | .pending => { e with passbook := .none } | _ => e

/-! ### Cash -/

/-- A till's value; absent while the denomination table is unset (R25). -/
def tillValue (s : State) (t : Till) : Option Nat := s.tlu.denoms.map fun f => valueOf f (s.till t).counts

/-- The amount of a breakdown at the table's face values (R11). -/
def amount (s : State) (b : List (Denom × Nat)) : Nat :=
  match s.tlu.denoms with
  | some f => amountOf f b
  | none => 0

def setCounts (s : State) (t : Till) (c : Counts) : State := s.setTill t { s.till t with counts := c }

/-- A pending transfer names the till as source or destination (R36, R70). -/
def transferNames (s : State) (t : Till) : Bool := s.tlu.transfers.any fun x => x.source == t || x.destination == t

end State

/-- What the asking block gives of an entry; DJU adds seq, day and time (R15). -/
structure Draft where
  station : Station
  kind : Kind
  till : Till
  till2 : Option Till
  account : Option Text
  breakdown : Option (List (Denom × Int))
  amount : Option Int
  ref : Option Nat
  transferId : Option Nat

namespace State

/-- The entry an append makes: the next sequence number, the current day, the time, LIVE and NONE (R9, R14, R15). -/
def entryOf (s : State) (d : Draft) : Entry :=
  { seq := s.dju.nextSeq, day := s.dayNumber, time := s.now, station := d.station, kind := d.kind, till := d.till,
    till2 := d.till2, account := d.account, breakdown := d.breakdown, amount := d.amount, ref := d.ref,
    status := .live, passbook := .none, transferId := d.transferId }

/-- The append that brings the free entries from 641 to 640 raises JOURNAL_LOW, unless the low mark is set (R17). -/
def noteLow (s : State) (freeBefore : Nat) : State :=
  if freeBefore = Config.lowFree + 1 ∧ s.dju.lowMark = false then
    { s with dju := { s.dju with lowMark := true } }.raise (.journalLow s.free s.dayNumber s.dju.cutRecord.isSome)
  else s

/-- DJU appends an entry for which it has found room (R15); the entry's number is `s.dju.nextSeq`. -/
def append (s : State) (d : Draft) : State :=
  { s with dju := { s.dju with journal := s.dju.journal ++ [s.entryOf d], nextSeq := s.dju.nextSeq + 1 } }.noteLow s.free

end State

/-! ### Taking requests and events -/

/-- A reply to a request of `type`: type plus 0x80, the tag unchanged (R190). -/
def replyTo (type tag : Nat) (st : Status) (items : List Item) : Sent :=
  .reply { type := type + 0x80, tag := tag, status := st, items := items }

/-- HLC hands a request to its block and sends the answer (R190). A payload that does not fit its layout is refused
with BAD_FIELD before any other check; a refused request leaves every record as it was, and `refused` gives the items of
its reply. A part that does not listen discards the characters (R197). -/
def takeRequestWith {α : Type} (refused : α → State → Status → List Item) (type : Nat) (r : Req α) (s : State)
    (f : α → State → Answer) : Result :=
  if s.listening then
    match r.fields with
    | none => .next (s.quiet.emit (replyTo type r.tag .badField []))
    | some a =>
      match f a s.quiet with
      | .error e => .next (s.quiet.emit (replyTo type r.tag e (refused a s.quiet e)))
      | .ok (t, items) => .next (t.emit (replyTo type r.tag .ok items))
  else .next s.quiet

/-- A request whose refusals carry the status alone (R202). -/
def takeRequest {α : Type} (type : Nat) (r : Req α) (s : State) (f : α → State → Answer) : Result :=
  takeRequestWith (fun _ _ _ => []) type r s f

/-- An event on a port or a timer of the running part; a part that is off or held in reset discards it (R193, R197). -/
def takeEvent (s : State) (f : State → State) : Result :=
  if s.live then .next (f s.quiet) else .next s.quiet

end Sys2Proof.Machine
end

