-- ==== Sys2Proof/Machine/DayJournal.lean ====
section
/-! DEFINITION. Opening the first day, DAY STATUS and JOURNAL READ (01). -/

namespace Sys2Proof.Machine

open Sys2Proof

/-- DENOM SET (R5): the ten face values, no two equal. A list of other than ten pairs fails check 2, as in `openingSet`
(log 16). -/
def denomSet (f : DenomSetFields) (s : State) : Answer := do
  need (s.dayState = .unset) .wrongState
  let faces ← require (tenValues? 1 Config.maxFace f.faces) .badField
  need (distinct (f.faces.map (·.2)) = true) .badField
  return ({ s with tlu := { s.tlu with denoms := some faces } }, [])

/-- OPENING SET (R6). A list of counts with other than ten pairs, or that names a denomination twice, fails check 2, after
the day state, and is no misfit of the payload's size (R190), though neither rule says so: DESIGN CHOICE (log 16). -/
def openingSet (f : OpeningSetFields) (s : State) : Answer := do
  need (s.dayState = .unset) .wrongState
  let t ← require (till? f.till) .badField
  let c ← require (tenValues? 0 Config.maxCount f.counts) .badField
  return (s.setTill t { s.till t with counts := c, opening := c }, [])

/-- The sum of the thirteen tills' opening counts (R28). -/
def State.openingSum (s : State) : Counts :=
  Vector.ofFn fun d => ((List.finRange 13).map fun t => (s.till t).opening[d]).sum

/-- DAY BEGIN (R7); TLU takes the branch opening position (R28). -/
def dayBegin (f : DayBeginFields) (s : State) : Answer := do
  need (s.dayState = .unset) .wrongState
  need (branchOk f.branch = true ∧ 1 ≤ f.day ∧ f.day ≤ 65535) .badField
  need (s.tlu.denoms.isSome = true) .wrongState
  return ({ s with
    dju := { s.dju with day := some { number := f.day, branch := f.branch } }
    tlu := { s.tlu with branchOpening := some s.openingSum } }, [])

/-- DAY STATUS (R22). "Marked exhausted" has no form in R22 or R202: a presence byte stands before the next sequence number
in every reply, 1 while there is one, and 0 with four zero bytes once the numbers are exhausted: DESIGN CHOICE (log 15). -/
def dayStatus (_ : NoFields) (s : State) : Answer :=
  let c := s.dju.cutRecord
  .ok (s,
    [u8 s.dayState.code] ++ optNum 2 (s.dju.day.map (·.number)) ++
    optItem s.dju.day (.raw (List.replicate 6 0)) (fun d => .raw d.branch) ++ [u16 s.free] ++
    optNum 4 (s.dju.journal.head?.map (·.seq)) ++ optNum 4 (s.dju.journal.getLast?.map (·.seq)) ++
    optNum 4 (if s.exhausted then none else some s.dju.nextSeq) ++ [flag c.isSome] ++ optNum 2 (c.map (·.day)) ++
    optNum 4 (c.map (·.seq)) ++ [flag s.dju.lowMark])

/-- JOURNAL READ (R21): the count of the list, the number returned, the number to ask next and the more flag stand beside
the entries. -/
def journalRead (f : JournalReadFields) (s : State) : Answer := do
  need (1 ≤ f.start ∧ f.start ≤ Config.lastSeq ∧ 1 ≤ f.maximum ∧ f.maximum ≤ 16) .badField
  need ((s.entry? f.start).isSome = true ∨ f.start = s.dju.nextSeq) .notFound
  let from' := s.dju.journal.dropWhile fun e => e.seq < f.start
  let n := fitting (Config.replyRoom - 7) ((from'.take f.maximum).map Entry.size)
  let out := from'.take n
  let next := if f.start + n ≤ Config.lastSeq then f.start + n else 0
  return (s, listOf out (fun e => [.posting e]) ++ [u8 n, u32 next, flag (decide (n < from'.length))])

def execDenomSet (r : Req DenomSetFields) (s : State) : Result := takeRequest 0x01 r s denomSet
def execOpeningSet (r : Req OpeningSetFields) (s : State) : Result := takeRequest 0x02 r s openingSet
def execDayBegin (r : Req DayBeginFields) (s : State) : Result := takeRequest 0x03 r s dayBegin
def execDayStatus (r : Req NoFields) (s : State) : Result := takeRequest 0x04 r s dayStatus
def execJournalRead (r : Req JournalReadFields) (s : State) : Result := takeRequest 0x05 r s journalRead

end Sys2Proof.Machine
end

