-- ==== Sys2Proof/Machine/Flags.lean ====
section
/-! DEFINITION. The eight indicators of a station and its status slot (R27, R54, R76, R95, R96, R126, R153). -/

namespace Sys2Proof.Machine

open Sys2Proof

/-- One indicator of a set. -/
def hasBit (v : BitVec 8) (i : Indicator) : Bool := v.getLsbD i.bit

def setBit (v : BitVec 8) (i : Indicator) (on : Bool) : BitVec 8 :=
  if on then v ||| (1#8 <<< i.bit) else v &&& ~~~(1#8 <<< i.bit)

namespace State

/-- The full status set of a station (R95). -/
def statusSet (s : State) (st : Station) : StatusSet :=
  { indicators := (s.line st).indicators, setup := (s.station st).setup }

/-- A STATUS frame that is out learns that its slot was filled again (R96). -/
def markRefilled (s : State) (st : Station) : State :=
  match s.slc.slot with
  | some sl => if sl.station = st then { s with slc := { s.slc with slot := some { sl with refilled := true } } } else s
  | none => s

/-- Filling the status slot writes the full status set over whatever the slot held (R95). -/
def fillSlot (s : State) (st : Station) : State :=
  (s.setLine st { s.line st with slot := some (s.statusSet st) }).markRefilled st

/-- A block asks SLC to set or clear an indicator. It is applied when the station is SIGNED_ON or LOST (R76); a change
fills the slot of a SIGNED_ON station, and a LOST station keeps the value for its return (R95). -/
def setIndicator (s : State) (st : Station) (i : Indicator) (on : Bool) : State :=
  let l := s.line st
  if hasBit l.indicators i = on then s
  else
    let changed := s.setLine st { l with indicators := setBit l.indicators i on }
    match s.presence st with
    | .signedOn _ => changed.fillSlot st
    | .lost _ _ => changed
    | _ => s

/-- OFFER_WAITING: a pending transfer names as destination the till the station holds (R27). -/
def offerWaiting (s : State) (st : Station) : Bool :=
  match s.held st with
  | some t => s.tlu.transfers.any fun x => x.destination == t
  | none => false

def holdsIn (s : State) (st : Station) (x : TillState) : Bool :=
  match s.held st with
  | some t => (s.till t).state == x
  | none => false

def holdsTripped (s : State) (st : Station) (d : Direction) : Bool :=
  match s.held st with
  | some t => (s.monitor t).state == .tripped d
  | none => false

/-- The indicators of a hold follow the held till, its monitor and the transfers that name it (R27, R54). -/
def syncHold (s : State) (st : Station) : State :=
  ((((s.setIndicator st .tillOpen (s.holdsIn st .opened)).setIndicator st .tillCounting (s.holdsIn st .counting)).setIndicator
    st .limitHigh (s.holdsTripped st .high)).setIndicator st .limitLow (s.holdsTripped st .low)).setIndicator
    st .offerWaiting (s.offerWaiting st)

def syncHolder (s : State) (h : Option Station) : State :=
  match h with
  | some st => s.syncHold st
  | none => s

/-- TLU recomputes OFFER_WAITING whenever a pending transfer is created or removed (R27). -/
def syncOffers (s : State) : State :=
  (List.finRange 12).foldl (fun (s : State) st => s.setIndicator st .offerWaiting (s.offerWaiting st)) s

def hasJobIn (s : State) (st : Station) (x : JobState) : Bool :=
  s.pjq.jobs.any fun j => j.station == st && j.state == x

/-- INSERT_BOOK while a job of the station is STARTED, TURN_PAGE while one is PAGE_TURN (R126). -/
def syncJobs (s : State) (st : Station) : State :=
  (s.setIndicator st .insertBook (s.hasJobIn st .started)).setIndicator st .turnPage (s.hasJobIn st .pageTurn)

/-- CUT_ARMED on every station (R153); those not SIGNED_ON or LOST do not take it (R76). -/
def setArmed (s : State) (on : Bool) : State :=
  (List.finRange 12).foldl (fun (s : State) st => s.setIndicator st .cutArmed on) s

/-- The eight indicators of a station as the records that stand give them (R68, R82). -/
def indicatorsFrom (s : State) (st : Station) : BitVec 8 :=
  setBit (setBit (setBit (setBit (setBit (setBit (setBit (setBit 0 .tillOpen (s.holdsIn st .opened)) .tillCounting
    (s.holdsIn st .counting)) .limitHigh (s.holdsTripped st .high)) .limitLow (s.holdsTripped st .low)) .offerWaiting
    (s.offerWaiting st)) .insertBook (s.hasJobIn st .started)) .turnPage (s.hasJobIn st .pageTurn)) .cutArmed
    (s.dayState == .armed)

end State

end Sys2Proof.Machine
end

