-- ==== Sys2Proof/Machine/Stations.lean ====
section
/-! DEFINITION. The station unit: presence, SIGN ON, SIGN OFF, STATION SETUP and STATION STATUS (04). -/

namespace Sys2Proof.Machine

open Sys2Proof

namespace State

/-- SLC reports a station's screen absent (R66). -/
def reportAbsent (s : State) (st : Station) : State :=
  match s.presence st with
  | .present => (s.setPresence st .vacant).raise (.stationAbsent st)
  | .signedOn o =>
    (s.setPresence st (.lost o Config.graceTime)).raise (.stationLost st o.operator o.held Config.graceTime false)
  | _ => s

/-- SLC reports a screen found at a VACANT station (R65), or a LOST station's screen back (R67). -/
def reportAnswered (s : State) (st : Station) : State :=
  match s.presence st with
  | .vacant => (s.setPresence st .present).raise (.stationPresent st)
  | .lost o grace =>
    (s.setPresence st (.signedOn o)).raise (.stationReturned st o.operator o.held (Config.graceTime - grace))
  | _ => s

/-- The pending transfers that refuse a station's SIGN OFF, in table order (R70 step 3, R80). STATION STATUS lists them in every
presence state: that it does so of a VACANT or PRESENT station, which R70 refuses at step 2 before step 3, is a DESIGN
CHOICE (log 27). -/
def holdingTransfers (s : State) (st : Station) : List Transfer :=
  s.tlu.transfers.filter fun x =>
    x.offeredTo == some st || (match s.held st with | some t => x.source == t || x.destination == t | none => false)

end State

/-- QUEUED, STARTED, PRINTING and PAGE_TURN (R124). -/
def JobState.unfinished : JobState → Bool
  | .queued => true | .started => true | .printing => true | .pageTurn => true
  | .done => false | .failed => false | .cancelled => false

def State.unfinishedJobs (s : State) (st : Station) : Nat :=
  (s.pjq.jobs.filter fun j => j.station == st && j.state.unfinished).length

def role? : Nat → Option Role
  | 1 => some .teller
  | 2 => some .supervisor
  | _ => none

/-- SIGN ON (R68). -/
def signOn (f : SignOnFields) (s : State) : Answer := do
  let st ← require (station? f.station) .badField
  let role ← require (role? f.role) .badField
  need (textOk (s.station st).setup.charset 1 8 f.operator) .badField
  need (s.presence st ≠ .vacant) .notPresent
  need (s.presence st = .present) .wrongState
  need ((s.line st).test.running = false) .wrongState
  let on := s.setPresence st (.signedOn { operator := f.operator, role := role, time := s.now, held := none })
  let fresh := on.setLine st { on.line st with indicators := setBit 0 .cutArmed (s.dayState == .armed) }
  return (fresh.fillSlot st, [u32 s.now])

/-- The presence a sign-off leaves: PRESENT where a screen answers, VACANT where none does (R71). -/
def Presence.afterSignOff : Presence → Presence
  | .signedOn _ => .present
  | _ => .vacant

/-- SIGN OFF (R70, R71). -/
def signOff (f : StationFields) (s : State) : Answer := do
  let st ← require (station? f.station) .badField
  let o ← require (s.signOn? st) .wrongState
  need ((s.holdingTransfers st).isEmpty) .transferPending
  need (o.held = none) .tillHeld
  need (s.unfinishedJobs st = 0) .jobsPending
  let off := s.setPresence st (s.presence st).afterSignOff
  let cleared := off.setLine st { off.line st with indicators := 0 }
  return (cleared.fillSlot st, [])

/-- The setup STATION SETUP leaves: only the status mask changes while a station is signed on (R77). -/
def setupAfter (p : Presence) (old given : Setup) : Setup :=
  match p with
  | .vacant => given
  | .present => given
  | .signedOn _ => { old with mask := given.mask }
  | .lost _ _ => { old with mask := given.mask }

/-- TAKEN 1 or KEPT 2, for the fields a sign-on protects (R77). -/
def keptCode : Presence → Nat
  | .vacant => 1
  | .present => 1
  | .signedOn _ => 2
  | .lost _ _ => 2

/-- STATION SETUP (R77, R78): a change of a field fills the status slot (R95, log 21). -/
def stationSetup (f : StationSetupFields) (s : State) : Answer := do
  let st ← require (station? f.station) .badField
  need (16 ≤ f.rows ∧ f.rows ≤ 25 ∧ (f.columns = 40 ∨ f.columns = 80) ∧ f.charset ≤ 3 ∧ f.mask < 256) .badField
  let r := s.station st
  let setup := setupAfter r.presence r.setup
    { rows := f.rows, columns := f.columns, charset := f.charset, mask := BitVec.ofNat 8 f.mask }
  let after := s.setStation st { r with setup := setup }
  let k := keptCode r.presence
  return (if setup = r.setup then after else after.fillSlot st,
    [u8 k, u8 setup.rows, u8 k, u8 setup.columns, u8 k, u8 setup.charset, u8 1, u8 setup.mask.toNat])

def lineTestItems (t : LineTest) : List Item := [u16 t.frames, u8 t.errored, flag t.live, flag t.sticky]

/-- STATION STATUS (R80, R102). Two forms that R202 leaves open are DESIGN CHOICES (log 15): the status slot, filled or
empty, is a flag of 1 or 0, and the line test, running or stopped, is a value 1 or 2 of a list. -/
def stationStatus (f : StationFields) (s : State) : Answer := do
  let st ← require (station? f.station) .badField
  let r := s.station st
  let l := s.line st
  let grace := match r.presence with | .lost _ g => some g | _ => none
  return (s,
    [u8 r.presence.code] ++
    optItem (s.signOn? st) (textItem 8 []) (fun o => textItem 8 o.operator) ++
    optItem (s.signOn? st) (u8 0) (fun o => u8 o.role.code) ++
    optNum 4 ((s.signOn? st).map (·.time)) ++
    optTill (s.held st) ++ optNum 2 grace ++
    [u8 r.setup.rows, u8 r.setup.columns, u8 r.setup.charset, u8 r.setup.mask.toNat, u8 l.indicators.toNat,
      flag l.slot.isSome, u8 l.output.length, u8 l.input.length, u8 l.misses, u8 (if l.test.running then 1 else 2)] ++
    lineTestItems l.test ++ [u8 (s.unfinishedJobs st)] ++
    listOf (s.holdingTransfers st) fun x => [u8 x.id])

def execSignOn (r : Req SignOnFields) (s : State) : Result := takeRequest 0x28 r s signOn
def execSignOff (r : Req StationFields) (s : State) : Result := takeRequest 0x29 r s signOff
def execStationSetup (r : Req StationSetupFields) (s : State) : Result := takeRequest 0x2A r s stationSetup
def execStationStatus (r : Req StationFields) (s : State) : Result := takeRequest 0x2B r s stationStatus

end Sys2Proof.Machine
end

