-- ==== Sys2Proof/Machine/ScreenLine.lean ====
section
/-! DEFINITION. The screen line controller: rounds and slots, replies and misses, display updates, operator input, line tests and the
scan range (05). -/

namespace Sys2Proof.Machine

open Sys2Proof

/-! ### The pattern generator (R98) -/

/-- One bit: the contents move toward the most significant end, and the exclusive-or of the two most significant bits
comes in at the other and is the bit produced. -/
def patternBit (g : BitVec 15) : BitVec 15 × Bool :=
  let b := xor (g.getLsbD 14) (g.getLsbD 13)
  ((g <<< 1) ||| (BitVec.ofBool b).setWidth 15, b)

/-- `n` bits produced in turn, appended to `acc` least significant last. -/
def patternBits : Nat → BitVec 15 → Byte → BitVec 15 × Byte
  | 0, g, acc => (g, acc)
  | n + 1, g, acc =>
    let (g', b) := patternBit g
    patternBits n g' ((acc <<< 1) ||| (BitVec.ofBool b).setWidth 8)

/-- `n` test characters, each of 8 bits, the first its most significant. -/
def patternChars : Nat → BitVec 15 → BitVec 15 × Text
  | 0, g => (g, [])
  | n + 1, g =>
    let (g', c) := patternBits 8 g 0
    let (g'', cs) := patternChars n g'
    (g'', c :: cs)

/-- The positions at which an echo of the right length differs (R98, R175). -/
def differing : Text → Text → Nat
  | a :: as, b :: bs => (if a = b then 0 else 1) + differing as bs
  | _, _ => 0

/-- The errored characters of a frame (R98, R175): 16 when there is no echo or one of another length. -/
def erroredIn (chars : Text) (echo : Option Text) : Nat :=
  match echo with
  | some e => if e.length = 16 then differing chars e else 16
  | none => 16

/-- A test frame's errored characters enter the record (R98). -/
def LineTest.count (t : LineTest) (errs : Nat) : LineTest :=
  { t with
    frames := min 65535 (t.frames + 1)
    errored := min 255 (t.errored + errs)
    live := decide (0 < errs)
    sticky := t.sticky || decide (0 < errs) }

/-! ### Rounds and slots -/

/-- The stations of a scan range in scan order (R83). -/
def scanOrder (first last : Station) : List Station :=
  if first ≤ last then (List.finRange 12).filter fun st => first ≤ st && st ≤ last
  else ((List.finRange 12).filter fun st => first ≤ st) ++ (List.finRange 12).filter fun st => st ≤ last

namespace State

/-- Whether the round now walked serves a station: a VACANT one only when it is counted 0 (R84). -/
def served (s : State) (st : Station) : Bool :=
  match s.presence st with
  | .vacant => s.slc.round == 0
  | _ => true

/-- The frame of a station's slot (R86). -/
def chooseBody (s : State) (st : Station) : ScreenBody :=
  let l := s.line st
  if s.countedPresent st then
    if l.test.running then .test (patternChars 16 l.test.generator).2
    else
      match l.slot, l.output with
      | some set, _ => .status set
      | none, u :: _ => .update u
      | none, [] => .poll
  else .poll

/-- A slot begins: the frame goes out with the station's input answer, and a TEST frame uses up its part of the
sequence (R85, R87, R98). -/
def beginSlot (s : State) (st : Station) : State :=
  let l := s.line st
  let body := s.chooseBody st
  let stepped :=
    match body with
    | .test _ => s.setLine st { l with test := { l.test with generator := (patternChars 16 l.test.generator).1 } }
    | _ => s
  { stepped with slc := { stepped.slc with
      slot := some { station := st, body := body, refilled := false, dropped := false, stale := false } } }.emit
    (.screen st body l.answer)

/-- The next slot: the next station of the walk that the round serves; when there is none the round ends, its counter
rises, and the next round begins (R83, R84). The round counted 0 serves every station of the range, so one comes within
nine rounds. -/
def nextSlot : Nat → State → State
  | 0, s => { s with slc := { s.slc with slot := none } }
  | n + 1, s =>
    match s.slc.walk.dropWhile fun st => !s.served st with
    | st :: rest => { s with slc := { s.slc with walk := rest } }.beginSlot st
    | [] =>
      nextSlot n { s with slc := { s.slc with
        walk := scanOrder s.slc.first s.slc.last, round := (s.slc.round + 1) % 8 } }

/-- The slot in progress ends and the next begins (R85). -/
def endSlot (s : State) : State := nextSlot 10 s

/-! ### Absence, and what a reply does -/

/-- SLC counts a screen absent (R89): queues, slot and counters are emptied and STU is told. -/
def screenAbsent (s : State) (st : Station) : State :=
  (s.setLine st { s.line st with output := [], input := [], slot := none, answer := .none, lastBit := none,
                                 misses := 0 }).reportAbsent st

/-- An input entry carried in a reply (R93). -/
def takeEntry (s : State) (st : Station) (kind : InputKind) (bit : Bool) (t : Text) : State :=
  let l := s.line st
  if l.lastBit = some bit then s.setLine st { l with answer := .taken bit }
  else if l.input.length < Config.inputCapacity then
    let stored := s.setLine st { l with
      input := l.input ++ [{ kind := kind, text := t, time := s.now }], lastBit := some bit, answer := .taken bit }
    if l.input.isEmpty then stored.raise (.inputReady st) else stored
  else s.setLine st { l with answer := .notTaken bit }

/-- The entry of a reply, or its lack (R87, R88). An entry of a kind other than KEY or FIELD, and an echo that no TEST
asked for, count as no entry (R203, 11). A station under test stores none (R97, log 17). -/
def handleContent (s : State) (st : Station) (c : ReplyContent) : State :=
  let l := s.line st
  let take (kind : InputKind) (bit : Bool) (t : Text) := if l.test.running then s else s.takeEntry st kind bit t
  match c with
  | .entry 1 bit t => take .key bit t
  | .entry 2 bit t => take .field bit t
  | _ => s.setLine st { l with answer := .none }

def setTest (s : State) (st : Station) (t : LineTest) : State := s.setLine st { s.line st with test := t }

def echoOf : ReplyContent → Option Text
  | .echo chars => some chars
  | _ => none

/-- A reply from a station counted present, by the frame it answers (R88, R92, R96, R98). -/
def applyReply (s : State) (sl : Slot) (r : ScreenReply) : State :=
  let st := sl.station
  let alive := s.setLine st { s.line st with misses := 0 }
  let l := alive.line st
  match sl.body with
  | .poll => alive.handleContent st r.content
  | .update _ => (if r.ack then alive.setLine st { l with output := l.output.drop 1 } else alive).handleContent st r.content
  | .status _ => (if sl.refilled then alive else alive.setLine st { l with slot := none }).handleContent st r.content
  | .test chars => if sl.stale then alive else alive.setTest st (l.test.count (erroredIn chars (echoOf r.content)))

/-- A reply from a station counted absent brings its screen back (R90). -/
def answerAbsent (s : State) (sl : Slot) (r : ScreenReply) : State :=
  let st := sl.station
  let back := (s.setLine st { s.line st with misses := 0, answer := .none, lastBit := none }).reportAnswered st
  (back.fillSlot st).handleContent st r.content

/-- A reply within a slot's wait (R85): one that names another station, or comes from a station a SCAN SET has left
VACANT outside the range (R100), is discarded, and the slot runs to the end of its wait. -/
def takeReply (s : State) (r : ScreenReply) : State :=
  match s.slc.slot with
  | none => s
  | some sl =>
    if r.station ≠ stationNo sl.station ∨ sl.dropped = true then s
    else (if s.countedPresent sl.station then s.applyReply sl r else s.answerAbsent sl r).endSlot

/-- A missed reply (R89, R98). -/
def applyMiss (s : State) (sl : Slot) : State :=
  let st := sl.station
  let l := s.line st
  if !s.countedPresent st || sl.dropped then s
  else
    match sl.body, sl.stale, l.test.running with
    | .test _, false, _ => s.setTest st (l.test.count 16)
    | _, _, true => s
    | _, _, false => if l.misses < 2 then s.setLine st { l with misses := l.misses + 1 } else s.screenAbsent st

/-- The end of a slot's 40 ms wait without a taken reply (R89). -/
def missReply (s : State) : State :=
  match s.slc.slot with
  | none => s
  | some sl => (s.applyMiss sl).endSlot

/-- A TEST frame that is out no longer belongs to the station's test (R97, R99; log 17). -/
def staleSlot (s : State) (st : Station) : State :=
  match s.slc.slot with
  | some sl => if sl.station = st then { s with slc := { s.slc with slot := some { sl with stale := true } } } else s
  | none => s

/-- A reply in the slot in progress is to be discarded when its station lies outside the new range: a SCAN SET has made
it VACANT, or it stays VACANT (R100). A second SCAN SET that takes the station in again before the reply does not undo
this, though R100 speaks of the stations made VACANT alone: DESIGN CHOICE (log 26). -/
def dropOutside (s : State) (range : List Station) : State :=
  match s.slc.slot with
  | some sl =>
    if range.contains sl.station then s else { s with slc := { s.slc with slot := some { sl with dropped := true } } }
  | none => s

end State

/-! ### Requests -/

/-- DISPLAY (R92, R78). -/
def display (f : DisplayFields) (s : State) : Answer := do
  let st ← require (station? f.station) .badField
  need (f.attr ≤ 2 ∧ 1 ≤ f.text.length ∧ f.text.length ≤ 80) .badField
  need (s.countedPresent st = true) .notPresent
  let u := (s.station st).setup
  need (1 ≤ f.row ∧ f.row ≤ u.rows ∧ 1 ≤ f.column ∧ f.column ≤ u.columns ∧ f.column + f.text.length - 1 ≤ u.columns ∧
    f.text.all (inCharset u.charset) = true) .badField
  let l := s.line st
  need (l.output.length < Config.outputCapacity) .queueFull
  let queue := l.output ++ [{ row := f.row, column := f.column, attr := f.attr, text := f.text }]
  return (s.setLine st { l with output := queue }, [u8 queue.length])

/-- READ INPUT (R94): two number bytes and a flag stand beside the entries. -/
def readInput (f : ReadInputFields) (s : State) : Answer := do
  let st ← require (station? f.station) .badField
  need (1 ≤ f.maximum ∧ f.maximum ≤ 16) .badField
  let l := s.line st
  let n := fitting (Config.replyRoom - 3) ((l.input.take f.maximum).map InputEntry.size)
  let out := l.input.take n
  let rest := l.input.drop n
  return (s.setLine st { l with input := rest },
    listOf out InputEntry.items ++ [u8 out.length, flag (!rest.isEmpty)])

/-- LINE TEST START (R97). -/
def lineTestStart (f : StationFields) (s : State) : Answer := do
  let st ← require (station? f.station) .badField
  need (st ∈ scanOrder s.slc.first s.slc.last) .wrongState
  need (s.presence st ≠ .vacant) .notPresent
  need (s.presence st = .present) .wrongState
  let l := s.line st
  need (l.test.running = false) .wrongState
  let started := s.setLine st { l with misses := 0, test := { LineTest.cold with running := true } }
  return (started.staleSlot st, [])

/-- LINE TEST STOP (R99). -/
def lineTestStop (f : StationFields) (s : State) : Answer := do
  let st ← require (station? f.station) .badField
  let l := s.line st
  need (l.test.running = true) .wrongState
  let stopped := s.setLine st { l with misses := 0, test := { l.test with running := false } }
  return (stopped.staleSlot st, lineTestItems l.test)

/-- SCAN SET (R100). -/
def scanSet (f : ScanSetFields) (s : State) : Answer := do
  let first ← require (station? f.first) .badField
  let last ← require (station? f.last) .badField
  let range := scanOrder first last
  need (((List.finRange 12).all fun st => range.contains st || (s.signOn? st).isNone) = true) .wrongState
  need (((List.finRange 12).all fun st => range.contains st || !(s.line st).test.running) = true) .wrongState
  let gone := (List.finRange 12).filter fun st => !range.contains st && s.countedPresent st
  let set := { s with slc := { s.slc with first := first, last := last, walk := [] } }
  return ((gone.foldl (fun (s : State) st => s.screenAbsent st) set).dropOutside range,
    [u8 (stationNo first), u8 (stationNo last)] ++ listOf gone fun st => [u8 (stationNo st)])

/-- SCAN STATUS (R101). -/
def scanStatus (_ : NoFields) (s : State) : Answer := do
  let range := scanOrder s.slc.first s.slc.last
  return (s, [u8 (stationNo s.slc.first), u8 (stationNo s.slc.last), u8 s.slc.round] ++
    listOf (List.finRange 12) fun st => [flag (range.contains st), flag (s.countedPresent st)])

def execDisplay (r : Req DisplayFields) (s : State) : Result := takeRequest 0x30 r s display
def execReadInput (r : Req ReadInputFields) (s : State) : Result := takeRequest 0x31 r s readInput
def execLineTestStart (r : Req StationFields) (s : State) : Result := takeRequest 0x32 r s lineTestStart
def execLineTestStop (r : Req StationFields) (s : State) : Result := takeRequest 0x33 r s lineTestStop
def execScanSet (r : Req ScanSetFields) (s : State) : Result := takeRequest 0x34 r s scanSet
def execScanStatus (r : Req NoFields) (s : State) : Result := takeRequest 0x35 r s scanStatus

/-! ### Events -/

/-- SCREEN_REPLY (R88, R90). -/
def execScreenReply (r : ScreenReply) (s : State) : Result := takeEvent s fun s => s.takeReply r

/-- SLOT_REPLY_TIMEOUT (R89). -/
def execSlotReplyTimeout (s : State) : Result := takeEvent s fun s => s.missReply

/-- LINK_FRAME_DISCARDED (R203): as if the frame had not come, and the receiver hunts again. -/
def execLinkFrameDiscarded (port : LinkPort) (s : State) : Result := takeEvent s fun s => s.setReceiver port .hunting

/-- LINK_FRAME_GAP_TIMEOUT (R203): the bytes gathered are discarded, and the receiver hunts again. -/
def execLinkFrameGapTimeout (port : LinkPort) (s : State) : Result := takeEvent s fun s => s.setReceiver port .hunting

end Sys2Proof.Machine
end

