-- ==== Sys2Proof/Machine/HeadOffice.lean ====
section
/-! DEFINITION. The head-office sender: the batch and its blocks, the link test, the window, holds, suspension and completion (09). -/

namespace Sys2Proof.Machine

open Sys2Proof

/-! ### The batch (R169 to R171) -/

/-- A posting record as a block carries it: its passbook state is down to the printed flag, set when the line printed on
day `d`, the one day not later than `d` on which a posting of day `d` can print (R170). -/
def Entry.asSent (d : Nat) (e : Entry) : Entry :=
  { e with passbook := if e.passbook = .printed d then .printed d else .none }

/-- The sum of several ten counts, denomination by denomination. -/
def sumCounts (cs : List Counts) : Counts := Vector.ofFn fun d => (cs.map fun v => v[d]).sum

/-- The counts of a breakdown for all ten denominations. -/
def breakdownCounts (b : List (Denom × Nat)) : Counts := Vector.ofFn fun d => countOf b d

/-- The block count N (R169). -/
def blockCount (p transit : Nat) : Nat := 1 + (p + 7) / 8 + 4 + (if transit = 0 then 0 else 1) + 1

/-- The amounts of the LIVE entries of a kind (R171). -/
def liveTotal (k : Kind) (es : List Entry) : Int :=
  ((es.filter fun e => e.kind == k && e.status == .live).map fun e => e.amount.getD 0).sum

/-- The trailer (R171). -/
def trailerOf (c : CutRecord) (es : List Entry) : BlockBody :=
  .trailer (es.length + 13 + c.transit.length) (liveTotal .cashIn es) (liveTotal .cashOut es)
    (sumCounts (c.tills.toList.map (·.counts) ++ c.transit.map fun t => breakdownCounts t.breakdown))

/-- The body of block `n` of the batch of a cut record, whose day's entries are `es` (R169 to R171). -/
def bodyOf (c : CutRecord) (es : List Entry) (n : Nat) : BlockBody :=
  let p := es.length
  let k := (p + 7) / 8
  if n ≤ 1 then .header c.seq c.time p (blockCount p c.transit.length)
  else if n ≤ 1 + k then .postings (((es.drop (8 * (n - 2))).take 8).map (Entry.asSent c.day))
  else if n ≤ 5 + k then
    let first := 4 * (n - 2 - k)
    .tills first ((c.tills.toList.drop first).take 4)
  else if n = 6 + k ∧ c.transit ≠ [] then .transit c.transit
  else trailerOf c es

namespace State

/-- The entries of a day (R16). -/
def dayEntries (s : State) (d : Nat) : List Entry := s.dju.journal.filter fun e => e.day == d

/-- Block `n`, built from the journal and the cut record as they stand (R169). -/
def buildBlock (s : State) (n : Nat) : Option Block :=
  match s.dju.cutRecord, s.dju.day with
  | some c, some d => some { branch := d.branch, day := c.day, number := n, body := bodyOf c (s.dayEntries c.day) n }
  | _, _ => none

def setHos (s : State) (h : Hos) : State := { s with hos := h }

/-! ### The link test (R175, R176) -/

/-- The next TEST frame goes out and its echo is awaited for two seconds (R175). -/
def sendTest (s : State) : State :=
  let t := s.hos.test
  let (g, chars) := patternChars 16 t.generator
  (s.setHos { s.hos with test := { t with generator := g, chars := chars, echoTimer := some Config.echoTime } }).emit
    (.test chars)

/-- Entry into TESTING, from the block `oldest` (R173 to R175). -/
def startTest (s : State) (b : Batch) : State :=
  (s.setHos { s.hos with
    state := .testing, batch := some b, next := some b.oldest, window := [], ackTimer := none, holdTimer := none,
    test := LinkTest.cold }).sendTest

/-- A READY record starts by itself when auto-start is on and carrier is present (R168). -/
def autoSend (s : State) : State :=
  match s.hos.state, s.hos.batch with
  | .ready, some b => if s.hos.autoStart ∧ s.pins.carrier then s.startTest b else s
  | _, _ => s

/-- The cut tells HOS that the batch is ready (R168). -/
def batchReady (s : State) (c : CutRecord) : State :=
  (s.setHos { s.hos with
    state := .ready, next := none, window := [], ackTimer := none, holdTimer := none
    batch := some { day := c.day, blocks := blockCount (s.dayEntries c.day).length c.transit.length, oldest := 1 } }).autoSend

/-! ### Suspension and completion (R182, R183) -/

/-- Entry into SUSPENDED (R182). -/
def suspend (s : State) (why : SuspendReason) (item : SuspendItem) : State :=
  let b := s.hos.batch.getD { day := 0, blocks := 0, oldest := 0 }
  (s.setHos { s.hos with
    state := .suspended why, window := [], ackTimer := none, holdTimer := none, next := none,
    test := { s.hos.test with echoTimer := none } }).raise (.sendSuspended why b.day b.blocks b.oldest item)

/-- DJU frees a day: its entries leave the head of the journal, where they stand together (R16), the cut record clears, and
the low mark clears above 640 free (R17, R20). -/
def freeDay (s : State) (d : Nat) : State :=
  let kept := s.dju.journal.dropWhile fun e => e.day == d
  { s with dju := { s.dju with
      journal := kept, cutRecord := none
      lowMark := s.dju.lowMark && decide (Config.journalCapacity - kept.length ≤ Config.lowFree) } }

/-- Completion of the batch (R183). -/
def complete (s : State) (b : Batch) : State :=
  let removed := (s.dayEntries b.day).length
  let freed := s.freeDay b.day
  (freed.setHos { freed.hos with
    state := .idle, batch := none, next := none, window := [], ackTimer := none, holdTimer := none }).raise
    (.sendDone b.day b.blocks removed freed.free)

/-! ### The window (R177) -/

/-- Block `n` is handed to the link: it joins the window unless it stands there, and the ack timer runs (R177). -/
def handBlock (s : State) (n : Nat) : State :=
  let h := s.hos
  let window := if h.window.any fun w => w.1 == n then h.window else h.window ++ [(n, 0)]
  let handed := s.setHos { h with window := window, next := some (n + 1), ackTimer := some (h.ackTimer.getD Config.ackTime) }
  match s.buildBlock n with
  | some b => handed.emit (.block b)
  | none => handed

/-- HOS hands blocks while both conditions of R177 hold. From a next-to-send position at or above the oldest
unacknowledged block these are at most the four of the window. -/
def handBlocks : Nat → State → State
  | 0, s => s
  | k + 1, s =>
    match s.hos.state, s.hos.batch, s.hos.next with
    | .sending, some b, some n =>
      if n ≤ b.blocks ∧ n < b.oldest + Config.windowSize then (s.handBlock n).handBlocks k else s
    | _, _, _ => s

def hand (s : State) : State := s.handBlocks Config.windowSize

/-- Sending goes on from `next` with the ack timer set afresh (R179 to R181). -/
def resend (s : State) (next : Nat) : State :=
  (s.setHos { s.hos with state := .sending, holdTimer := none, next := some next, ackTimer := some Config.ackTime }).hand

/-- The outstanding batch in SENDING and HELD, where the line unit's ACK and NAK act. -/
def sendingBatch (s : State) : Option Batch :=
  match s.hos.state with
  | .sending => s.hos.batch
  | .held => s.hos.batch
  | _ => none

/-- `n` is from the oldest unacknowledged block to the highest block in the window (R178, R179). -/
def inWindow (s : State) (b : Batch) (n : Nat) : Bool :=
  match s.hos.window.getLast? with
  | some w => decide (b.oldest ≤ n ∧ n ≤ w.1)
  | none => false

/-! ### Messages of the line unit -/

/-- ACK (R178). -/
def takeAck (s : State) (n : Nat) : State :=
  match s.sendingBatch with
  | none => s
  | some b =>
    if s.inWindow b n then
      let window := s.hos.window.filter fun w => n < w.1
      let next := s.hos.next.map fun k => max k (n + 1)
      let acked := s.setHos { s.hos with
        window := window, next := next, batch := some { b with oldest := n + 1 }
        ackTimer := if s.hos.state = .sending ∧ window ≠ [] then some Config.ackTime else none }
      if n = b.blocks then s.complete b else acked.hand
    else s

/-- A failure is counted against a block whose retry count is below 3 (R179, R180). -/
def countRetry (window : List (Nat × Nat)) (n : Nat) : List (Nat × Nat) :=
  window.map fun w => if w.1 = n then (w.1, w.2 + 1) else w

/-- NAK (R179). -/
def takeNak (s : State) (n : Nat) : State :=
  match s.sendingBatch with
  | none => s
  | some b =>
    if s.inWindow b n then
      let window := s.hos.window.filter fun w => n ≤ w.1
      let acked := s.setHos { s.hos with window := window, batch := some { b with oldest := n } }
      if 3 ≤ (window.lookup n).getD 0 then acked.suspend .timeout (.block n true)
      else
        let counted := acked.setHos { acked.hos with window := countRetry window n, next := some n }
        match s.hos.state with
        | .sending => counted.resend n
        | _ => counted
    else s

/-- HOLD (R181). -/
def takeHold (s : State) : State :=
  match s.hos.state with
  | .sending => s.setHos { s.hos with state := .held, ackTimer := none, holdTimer := some Config.holdTime }
  | _ => s

/-- GO (R181). -/
def takeGo (s : State) : State :=
  match s.hos.state, s.hos.batch with
  | .held, some b => s.resend b.oldest
  | _, _ => s

/-- REJECT (R182). -/
def takeReject (s : State) (code : Nat) : State :=
  match s.sendingBatch with
  | some _ => s.suspend (.rejected code) (.code code)
  | none => s

/-- A test frame is settled, and after the 64th the test ends (R175, R176). -/
def settle (s : State) (errs : Nat) : State :=
  let t := s.hos.test
  let counted : LinkTest :=
    { t with
      frames := t.frames + 1
      errored := min 255 (t.errored + errs)
      live := decide (0 < errs)
      sticky := t.sticky || decide (0 < errs)
      echoTimer := none }
  if counted.frames < Config.testFrames then (s.setHos { s.hos with test := counted }).sendTest
  else if counted.errored ≤ s.hos.threshold then
    (s.setHos { s.hos with state := .sending, test := { counted with result := some true } }).hand
  else
    (s.setHos { s.hos with test := { counted with result := some false } }).suspend .linePoor (.errored counted.errored)

/-- ECHO (R175); one that no frame awaits is discarded. -/
def takeEcho (s : State) (chars : Text) : State :=
  match s.hos.state, s.hos.test.echoTimer with
  | .testing, some _ => s.settle (erroredIn s.hos.test.chars (some chars))
  | _, _ => s

/-! ### Timers -/

/-- The ack timer has run out (R180). -/
def ackRunOut (s : State) : State :=
  match s.hos.state, s.hos.batch, s.hos.window with
  | .sending, some b, (n, r) :: _ =>
    if r < 3 then
      (s.setHos { s.hos with window := countRetry s.hos.window n }).resend b.oldest
    else s.suspend .timeout (.block n false)
  | _, _, _ => s

/-- The echo timer has run out (R175). -/
def echoRunOut (s : State) : State :=
  match s.hos.state with
  | .testing => s.settle 16
  | _ => s

/-- The hold timer has run out (R181). -/
def holdRunOut (s : State) : State :=
  match s.hos.state with
  | .held => s.suspend .holdLimit .nothing
  | _ => s

/-! ### Carrier (R168, R182, R200) -/

def setCarrier (s : State) (on : Bool) : State := { s with pins := { s.pins with carrier := on } }

/-- Carrier leaves the link (R182). -/
def loseCarrier (s : State) : State :=
  match s.hos.state with
  | .testing => s.suspend .carrier .nothing
  | .sending => s.suspend .carrier .nothing
  | .held => s.suspend .carrier .nothing
  | _ => s

end State

/-! ### Requests -/

/-- SEND CONFIG (R172). -/
def sendConfig (f : SendConfigFields) (s : State) : Answer := do
  need (f.threshold ≤ 255) .badField
  let set := s.setHos { s.hos with autoStart := f.autoStart, threshold := f.threshold }
  let after := if f.autoStart ∧ s.hos.autoStart = false then set.autoSend else set
  return (after, [flag f.autoStart, u8 f.threshold, u8 after.hos.state.code])

/-- SEND START (R173). -/
def sendStart (_ : NoFields) (s : State) : Answer := do
  need (s.hos.state = .ready) .wrongState
  need (s.pins.carrier = true) .noCarrier
  let b ← require s.hos.batch .wrongState
  return (s.startTest b, [u8 SendState.testing.code])

def SendState.suspendedNow : SendState → Bool
  | .suspended _ => true
  | _ => false

/-- SEND RESUME (R174). -/
def sendResume (_ : NoFields) (s : State) : Answer := do
  need (s.hos.state.suspendedNow = true) .wrongState
  need (s.pins.carrier = true) .noCarrier
  let b ← require s.hos.batch .wrongState
  return (s.startTest b, [u8 SendState.testing.code, u16 b.oldest])

/-- SEND RESTART (R174). -/
def sendRestart (_ : NoFields) (s : State) : Answer := do
  need (s.hos.state.suspendedNow = true ∨ s.hos.state = .ready) .wrongState
  need (s.pins.carrier = true) .noCarrier
  let b ← require s.hos.batch .wrongState
  return (s.startTest { b with oldest := 1 }, [u8 SendState.testing.code, u16 1])

/-- The reason and reject code of a suspension (R185). -/
def suspensionItems : SendState → List Item
  | .suspended (.rejected c) => optNum 1 (some (SuspendReason.rejected c).code) ++ optNum 1 (some c)
  | .suspended r => optNum 1 (some r.code) ++ optNum 1 none
  | _ => optNum 1 none ++ optNum 1 none

/-- SEND STATUS (R185). -/
def sendStatus (_ : NoFields) (s : State) : Answer :=
  let h := s.hos
  .ok (s,
    [u8 h.state.code] ++ suspensionItems h.state ++
    optNum 2 (h.batch.map (·.day)) ++ optNum 2 (h.batch.map (·.blocks)) ++
    optNum 2 (h.batch.map fun b => (s.dayEntries b.day).length) ++ optNum 2 (h.batch.map (·.oldest)) ++
    optNum 2 h.next ++ listOf h.window (fun w => [u16 w.1, u8 w.2]) ++ optNum 2 h.ackTimer ++ optNum 2 h.holdTimer ++
    [flag s.pins.carrier, flag h.autoStart, u8 h.threshold, u16 h.test.frames, u8 h.test.errored, flag h.test.live,
      flag h.test.sticky, u8 (resultCode h.test.result)] ++ optNum 2 h.test.echoTimer)

def execSendConfig (r : Req SendConfigFields) (s : State) : Result := takeRequest 0x58 r s sendConfig
def execSendStart (r : Req NoFields) (s : State) : Result := takeRequest 0x59 r s sendStart
def execSendResume (r : Req NoFields) (s : State) : Result := takeRequest 0x5A r s sendResume
def execSendRestart (r : Req NoFields) (s : State) : Result := takeRequest 0x5B r s sendRestart
def execSendStatus (r : Req NoFields) (s : State) : Result := takeRequest 0x5C r s sendStatus

/-! ### Events -/

/-- ACK (R178). -/
def execAck (block : Nat) (s : State) : Result := takeEvent s fun s => s.takeAck block

/-- NAK (R179). -/
def execNak (block : Nat) (s : State) : Result := takeEvent s fun s => s.takeNak block

/-- HOLD (R181). -/
def execHold (s : State) : Result := takeEvent s fun s => s.takeHold

/-- GO (R181). -/
def execGo (s : State) : Result := takeEvent s fun s => s.takeGo

/-- REJECT (R182). -/
def execReject (code : Nat) (s : State) : Result := takeEvent s fun s => s.takeReject code

/-- ECHO (R175). -/
def execEcho (chars : Text) (s : State) : Result := takeEvent s fun s => s.takeEcho chars

/-- CARRIER_ARRIVAL (R168, R200): the input follows its pin at all times; a change of level starts a READY send. -/
def execCarrierArrival (s : State) : Result :=
  let up := s.quiet.setCarrier true
  .next (if s.live ∧ s.pins.carrier = false then up.autoSend else up)

/-- CARRIER_LOSS (R182, R200). -/
def execCarrierLoss (s : State) : Result :=
  let down := s.quiet.setCarrier false
  .next (if s.live ∧ s.pins.carrier = true then down.loseCarrier else down)

end Sys2Proof.Machine
end

