-- ==== Sys2Proof/Machine/DayCut.lean ====
section
/-! DEFINITION. The cut controller: arming, the trigger, the gate, the cut itself and its requests (08). -/

namespace Sys2Proof.Machine

open Sys2Proof

/-! ### The gate (R155) -/

/-- OPEN, COUNTING and LAPSED tills hold the gate. -/
def TillState.holdsGate : TillState → Bool
  | .opened => true | .counting => true | .lapsed => true
  | .closed => false | .balanced => false

/-- R158. -/
def TillState.cls : TillState → TillClass
  | .balanced => .balanced | .closed => .closed
  | .opened => .unbalanced | .counting => .unbalanced | .lapsed => .unbalanced

/-- The day after a day (R2). -/
def nextDay (d : Nat) : Nat := if d < 65535 then d + 1 else 1

namespace State

/-- R155. -/
def gateMet (s : State) : Bool :=
  s.tlu.transfers.isEmpty && (List.finRange 13).all fun t => !(s.till t).state.holdsGate

/-! ### The cut (R158 to R161) -/

/-- The till snapshot (R158). -/
def tillSnap (s : State) (t : Till) : TillSnap :=
  let r := s.till t
  { state := r.state, holder := r.holder, counts := r.counts, value := (s.tillValue t).getD 0, opening := r.opening,
    cls := r.state.cls }

/-- The in-transit snapshot of a pending transfer (R158). -/
def transitSnap (x : Transfer) : TransitSnap :=
  { id := x.id, source := x.source, destination := x.destination, breakdown := x.breakdown, amount := x.amount,
    outSeq := x.outSeq, waiting := x.waiting }

/-- The cut record of day `d` (R18, R158). -/
def cutRecordOf (s : State) (d : Nat) : CutRecord :=
  { day := d, seq := s.dju.nextSeq - 1, time := s.now, tills := Vector.ofFn s.tillSnap,
    transit := s.tlu.transfers.map transitSnap }

/-- The branch's cash: the counts of the tills and of the pending transfers (R28). -/
def branchCash (s : State) : Counts :=
  sumCounts ((s.tlu.tills.toList.map (·.counts)) ++ s.tlu.transfers.map fun x => breakdownCounts x.breakdown)

/-- A till after the cut (R159). -/
def cutTill (r : TillRec) : TillRec :=
  { r with
    opening := r.counts
    unbalanced := r.state.holdsGate
    state := match r.state with | .balanced => .closed | x => x
    holder := match r.state with | .balanced => none | _ => r.holder }

/-- The holder of a BALANCED till loses its hold (R159 step 3). -/
def dropHold (s : State) (r : TillRec) : State :=
  match r.state, r.holder with
  | .balanced, some st => (s.setHeld st none).syncHold st
  | _, _ => s

/-- TLU's part of the cut (R159). -/
def cutTills (s : State) : State :=
  let moved := { s with tlu := { s.tlu with branchOpening := some s.branchCash,
                                            tills := Vector.ofFn fun t => cutTill (s.till t) } }
  (List.finRange 13).foldl (fun (x : State) t => x.dropHold (s.till t)) moved

/-- The number of tills of a class. -/
def classCount (c : CutRecord) (k : TillClass) : Nat := (c.tills.toList.filter fun t => t.cls == k).length

/-- The tills classed UNBALANCED, in till order. -/
def unbalancedTills (c : CutRecord) : List Till := (List.finRange 13).filter fun t => c.tills[t].cls == .unbalanced

/-- CUT_DONE (R161). -/
def cutNotice (c : CutRecord) (count : Nat) (cause : CutCause) : Notice :=
  .cutDone c.day (nextDay c.day) c.seq c.time count (classCount c .balanced) (classCount c .closed)
    (classCount c .unbalanced) (unbalancedTills c) c.transit.length cause

/-- The cut, whole (R158 to R161). Nothing is cut where no day is in progress. -/
def takeCut (s : State) (cause : CutCause) : State :=
  match s.dju.day with
  | none => s
  | some d =>
    let c := s.cutRecordOf d.number
    let recorded := { s with dju := { s.dju with cutRecord := some c } }
    let tills := recorded.cutTills
    let advanced := { tills with
      dju := { tills.dju with day := some { d with number := nextDay d.number } }, cut := none }
    ((advanced.setArmed false).raise (cutNotice c (s.dayEntries d.number).length cause)).batchReady c

/-- The gate check of an arming in AWAIT_GATE (R155). -/
def gateCheck (s : State) : State :=
  match s.cut with
  | some a => if a.state = .awaitGate ∧ s.gateMet = true then s.takeCut .gate else s
  | none => s

/-- The trigger of an arming (R152, R154). -/
def trigger (s : State) (a : Arm) : State :=
  if a.force then s.takeCut .forced
  else { s with cut := some { a with state := .awaitGate, triggeredAt := some s.now } }.gateCheck

/-- The arming whose trigger time the clock has met (R154). -/
def meets (s : State) : Option Arm :=
  match s.cut with
  | some a => if a.state = .awaitTrigger ∧ s.hlc.clock.valid = true ∧ a.trigger = some s.hlc.clock.time then some a else none
  | none => none

/-- CUT's comparison of the clock with the trigger time (R154). -/
def compareTrigger (s : State) : State :=
  match s.meets with
  | some a => s.trigger a
  | none => s

/-- CUT_ARMED is set where an arming has left the day ARMED (R153). -/
def showArmed (s : State) : State := if s.cut.isSome then s.setArmed true else s

end State

def cutMode? : Nat → Option CutMode
  | 1 => some .immediate
  | 2 => some .atTime
  | 3 => some .gate
  | _ => none

/-- Check 1 of CUT ARM, the mode given (R151). -/
def armOk (m : CutMode) (time : Option Nat) (force : Bool) : Bool :=
  match m, time with
  | .atTime, some t => t ≤ Config.lastSecond
  | .immediate, none => true
  | .gate, none => !force
  | _, _ => false

/-- The arming of a mode, within the request (R152). -/
def armed (m : CutMode) (a : Arm) (s : State) : State :=
  match m with
  | .immediate => s.trigger a
  | .atTime => { s with cut := some a }
  | .gate => { s with cut := some { a with state := .awaitGate } }.gateCheck

/-- The outcome of CUT ARM: CUT 1 with day and cut seq, else AWAIT_TRIGGER 2 or AWAIT_GATE 3 with the clock's flag (R152). -/
def armItems (s : State) : List Item :=
  let cut := match s.cut with | none => s.dju.cutRecord | some _ => none
  [u8 (match s.cut with | none => 1 | some a => a.state.code)] ++ optNum 2 (cut.map (·.day)) ++ optNum 4 (cut.map (·.seq)) ++
    optItem s.cut (u8 0) fun _ => flag s.hlc.clock.valid

/-- CUT ARM (R151, R152). -/
def cutArm (f : CutArmFields) (s : State) : Answer := do
  let m ← require (cutMode? f.mode) .badField
  need (armOk m f.time f.force = true) .badField
  need (s.dayState ≠ .unset) .dayUnset
  need (s.dayState = .opened) .wrongState
  need (s.dju.cutRecord = none) .previousDayUnsent
  let a : Arm :=
    { state := .awaitTrigger, mode := m, trigger := f.time, force := f.force, armedAt := s.now, triggeredAt := none }
  let after := (armed m a s).showArmed
  return (after, armItems after)

/-- CUT DISARM (R156). -/
def cutDisarm (_ : NoFields) (s : State) : Answer := do
  need (s.dayState ≠ .unset) .dayUnset
  let a ← require s.cut .wrongState
  return ({ s with cut := none }.setArmed false, [u8 a.state.code, u8 a.mode.code])

/-- CUT STATUS (R163). -/
def cutStatus (_ : NoFields) (s : State) : Answer :=
  let tills := (List.finRange 13).filter fun t => (s.till t).state.holdsGate
  let c := s.dju.cutRecord
  .ok (s,
    [u8 (armCode s.cut)] ++ optNum 1 (s.cut.map (·.mode.code)) ++ optNum 4 (s.cut.bind (·.trigger)) ++
    optItem s.cut (u8 0) (fun a => flag a.force) ++ optNum 4 (s.cut.map (·.armedAt)) ++
    optNum 4 (s.cut.bind (·.triggeredAt)) ++ [flag s.hlc.clock.valid, flag s.gateMet] ++
    listOf tills (fun t => [u8 t.val, u8 (s.till t).state.code] ++ optStation (s.till t).holder) ++
    listOf s.tlu.transfers (fun x => [u8 x.id, flag x.waiting]) ++ [flag c.isSome] ++ optNum 2 (c.map (·.day)) ++
    optNum 4 (c.map (·.seq)) ++ optNum 4 (c.map (·.time)) ++ optNum 1 (c.map fun c => State.classCount c .balanced) ++
    optNum 1 (c.map fun c => State.classCount c .closed) ++ optNum 1 (c.map fun c => State.classCount c .unbalanced) ++
    optNum 1 (c.map (·.transit.length)))

def execCutArm (r : Req CutArmFields) (s : State) : Result := takeRequest 0x50 r s cutArm
def execCutDisarm (r : Req NoFields) (s : State) : Result := takeRequest 0x51 r s cutDisarm
def execCutStatus (r : Req NoFields) (s : State) : Result := takeRequest 0x52 r s cutStatus

end Sys2Proof.Machine
end

