-- ==== Sys2Proof/Machine/HostLink.lean ====
section
/-! DEFINITION. The host link: notices, the clock, IDENTIFY, RESTART and the bytes of damaged, unknown and abandoned frames (10). -/

namespace Sys2Proof.Machine

open Sys2Proof

/-- READ NOTICES (R192): the count of the list, the number returned, the number left and the overflow flag stand beside
the notices. -/
def readNotices (f : ReadNoticesFields) (s : State) : Answer := do
  need (1 ≤ f.maximum ∧ f.maximum ≤ 8) .badField
  let queue := s.hlc.notices
  let n := fitting (Config.replyRoom - 4) ((queue.take f.maximum).map Raised.size)
  let rest := queue.drop n
  return ({ s with hlc := { s.hlc with notices := rest, overflow := false } },
    listOf (queue.take n) (fun r => [.notice r]) ++ [u8 n, u8 rest.length, flag s.hlc.overflow])

/-- TIME SET (R194, R154). -/
def timeSet (f : TimeSetFields) (s : State) : Answer := do
  need (f.time ≤ Config.lastSecond ∧ f.date ≤ Config.lastDate) .badField
  let c := s.hlc.clock
  let set := { s with hlc := { s.hlc with clock := { time := f.time, date := f.date, valid := true } } }
  return (set.compareTrigger, [u32 c.time, u16 c.date, flag c.valid, u32 f.time, u16 f.date])

/-- "VW", "FB212" and the revision letter (R195). -/
def vendorCode : Text := [0x56, 0x57]
def partCode : Text := [0x46, 0x42, 0x32, 0x31, 0x32]
def revisionLetter : Text := [BitVec.ofNat 8 (65 + Config.revision.val)]

/-- IDENTIFY (R195). The vendor code, the part code and the revision letter have no row in R202's table; each is sent as a
text with its length byte: DESIGN CHOICE (log 15). -/
def identify (_ : NoFields) (s : State) : Answer :=
  let h := s.hlc
  .ok (s, [textItem 2 vendorCode, textItem 5 partCode, textItem 1 revisionLetter, u8 h.rate.code, u32 h.clock.time,
    u16 h.clock.date, flag h.clock.valid, u8 h.startKind.code, u8 h.startCause.code])

/-- RESTART (R197): answered, and the restart begins when the reply has left the line (RESTART_BEGIN). -/
def askRestart (_ : NoFields) (s : State) : Answer := .ok ({ s with hlc := { s.hlc with restarting := true } }, [])

def execReadNotices (r : Req ReadNoticesFields) (s : State) : Result := takeRequest 0x60 r s readNotices
def execTimeSet (r : Req TimeSetFields) (s : State) : Result := takeRequest 0x61 r s timeSet
def execIdentify (r : Req NoFields) (s : State) : Result := takeRequest 0x62 r s identify
def execRestart (r : Req NoFields) (s : State) : Result := takeRequest 0x63 r s askRestart

/-! ### Frames that are no requests (R188, R189) -/

/-- A status alone, with no block asked (R189). -/
def bareReply (type tag : Nat) (st : Status) : Sent := .reply { type := type, tag := tag, status := st, items := [] }

/-- HOST_FRAME_ERROR: type 0xFF, tag 0, FRAME_ERROR (R188, R189). -/
def execHostFrameError (s : State) : Result :=
  if s.listening then .next (s.quiet.emit (bareReply 0xFF 0 .frameError)) else .next s.quiet

/-- The reply type to an unlisted type (R189). -/
def unknownType (type : Nat) : Nat := if type ≤ 0x7E then type + 0x80 else 0xFF

/-- UNKNOWN_REQUEST (R189). -/
def execUnknownRequest (type tag : Nat) (s : State) : Result :=
  if s.listening then .next (s.quiet.emit (bareReply (unknownType type) tag .unknownRequest)) else .next s.quiet

def State.setReceive (s : State) (r : Receive) : State := { s with hlc := { s.hlc with receive := r } }

/-- HOST_FRAME_TIMEOUT: the bytes gathered are discarded, and HLC hunts again without a reply (R188). -/
def execHostFrameTimeout (s : State) : Result := takeEvent s fun s => s.setReceive .hunting

/-- HOST_FRAME_OVERRUN: the frame that found the buffer full has been discarded, and HLC hunts again (R188). -/
def execHostFrameOverrun (s : State) : Result := takeEvent s fun s => s.setReceive .hunting

end Sys2Proof.Machine
end

