-- ==== Sys2Proof/Machine/PrintJobs.lean ====
section
/-! DEFINITION. Print jobs: picking, the book checks, lines and page turns, the ends of jobs, and the requests PRINT SUBMIT, PRINT
CANCEL and JOB STATUS (07, with the picking of 06). -/

namespace Sys2Proof.Machine

open Sys2Proof

/-- The next id after the last given, counting 255 to 1 and passing over the ids held (R40, R127). -/
def nextId (last : Nat) (held : List Nat) : Nat :=
  (((List.range 255).map fun k => (last + k) % 255 + 1).find? fun i => !held.contains i).getD 0

/-- The working device states (R106). -/
def Device.working : Device → Bool
  | .idle => true | .waitingBook => true | .printing => true | .pageTurn => true
  | .offline => false | .fault => false

namespace State

def job? (s : State) (id : Nat) : Option Job := s.pjq.jobs.find? fun j => j.id == id

def setJob (s : State) (j : Job) : State := s.setJobs (s.pjq.jobs.map fun k => if k.id == j.id then j else k)

/-! ### Messages to a printer (R110) -/

/-- A CLEAR on a job's behalf: the clear outstanding count rises by one and holds at 3 (R110). -/
def sendClear (s : State) (p : Printer) : State :=
  let r := s.printer p
  (s.setPrinter p { r with clears := min 3 (r.clears + 1) }).emitTo p .clear

/-! ### Picking (R107, R118, R119, R130) -/

def ownsPrinter (s : State) (st : Station) : Bool := (List.finRange 4).any fun p => (s.printer p).owner == .station st

/-- The jobs a printer may serve, by the owners as they stand (R107). -/
def mayServe (s : State) (p : Printer) (j : Job) : Bool :=
  match (s.printer p).owner with
  | .station st => j.station == st
  | .pool => !s.ownsPrinter j.station

def readyToPick (s : State) (p : Printer) : Bool :=
  let r := s.printer p
  r.device == .idle && !r.hold && r.bound.isNone

/-- A printer takes a job and PJQ starts it (R119, R130). -/
def startJob (s : State) (p : Printer) (j : Job) : State :=
  let bound := s.setPrinter p { s.printer p with bound := some j.id, wrongBooks := 0, device := .waitingBook }
  let started := bound.setJob { j with state := .started, printer := some p, wait := some Config.bookWait }
  (started.emitTo p (.showInsert j.book)).syncJobs j.station

def pickOne (s : State) (p : Printer) : State :=
  if s.readyToPick p then
    match s.pjq.jobs.find? fun j => j.state == .queued && s.mayServe p j with
    | some j => s.startJob p j
    | none => s
  else s

/-- A pick pass: the printers in ascending number, each taking the oldest QUEUED job it may serve (R118). -/
def pickPass (s : State) : State := (List.finRange 4).foldl (fun (s : State) p => s.pickOne p) s

/-! ### The end of a job (R140) -/

/-- PRC unbinds a job's printer: IDLE if it was working, as it stands after a fault or a loss (R119). -/
def unbind (s : State) (p : Option Printer) : State :=
  match p with
  | none => s
  | some p =>
    let r := s.printer p
    s.setPrinter p { r with bound := none, wrongBooks := 0, device := if r.device.working then .idle else r.device }

/-- The postings of the lines left WAITING, if still held, return from PENDING to NONE (R140 step 2). -/
def freePostings (s : State) (lines : List JobLine) : State :=
  lines.foldl (fun (s : State) l =>
    match l.state, l.posting with
    | .waiting, some q => s.freePassbook q.seq
    | _, _ => s) s

end State

/-- A SENT line returns to WAITING, unprinted (R140 step 1). -/
def JobLine.unsent (l : JobLine) : JobLine :=
  match l.state with
  | .sent => { l with state := .waiting }
  | _ => l

/-- The record of a job that has ended (R124, R140): its bound printer and wait timer are absent. -/
def Job.ended (j : Job) (st : JobState) (r : Reason) : Job :=
  { j with
    state := st, reason := some r, lines := j.lines.map JobLine.unsent, printer := none, wait := none,
    cancelPending := false }

namespace State

/-- Steps 1 to 5 of a job's end, less the pick pass (R140). -/
def closeJob (s : State) (j : Job) (st : JobState) (r : Reason) : State :=
  let e := j.ended st r
  ((((s.setJob e).freePostings e.lines).syncJobs j.station).raise
    (.jobEnded j.id j.station st r j.printed j.printer j.place)).unbind j.printer

/-- The end of a job; when its printer has become IDLE a pick pass follows in the same event (R119, R140). -/
def endJob (s : State) (j : Job) (st : JobState) (r : Reason) : State :=
  let closed := s.closeJob j st r
  match j.printer with
  | some p => if (closed.printer p).device == .idle then closed.pickPass else closed
  | none => closed

end State

/-! ### Lines (R132 to R138) -/

/-- The position, from 1, of the first WAITING line at or after position `i` (R132). -/
def nextWaiting (lines : List JobLine) (i : Nat) : Option Nat :=
  ((List.range lines.length).find? fun k => i ≤ k + 1 && (lines[k]?.map (·.state)) == some .waiting).map (· + 1)

/-- The line in flight (R126). -/
def Job.sentLine (j : Job) : Option (Nat × JobLine) :=
  match j.lines.findIdx? fun l => l.state == .sent with
  | some i => j.lines[i]?.map fun l => (i, l)
  | none => none

/-- The book's next free page and line; none at the end-of-page mark of page 32 (R138). -/
def nextFree (p : Place) : Option (Nat × Nat) :=
  match p.line with
  | some l => some (p.page, l)
  | none => if p.page < Config.pages then some (p.page + 1, 1) else none

/-- The place after a line has been printed at line `l`: the next line, or the end-of-page mark after line 24 (R134). -/
def Place.advance (p : Place) : Place :=
  match p.line with
  | some l => { p with line := if l < Config.pageLines then some (l + 1) else none }
  | none => p

namespace State

/-- A line that names a posting of another day than the current one and has no note yet (R132, R134). -/
def lateLine (s : State) (l : JobLine) : Option LinePosting :=
  match l.posting, l.noteSeq with
  | some q, none => if q.day ≠ s.dayNumber then some q else none
  | _, _ => none

/-- The late-line note (R133). -/
def noteDraft (j : Job) (q : LinePosting) : Draft :=
  { station := j.station, kind := .printNote, till := q.till, till2 := none, account := none, breakdown := none,
    amount := none, ref := some q.seq, transferId := none }

/-- WRITE_STRIPE with the book's next free line, where there is one, and then EJECT (R133, R134, R138, R142). -/
def giveBack (s : State) (p : Printer) (j : Job) : State :=
  let striped :=
    match j.place.bind nextFree with
    | some (page, line) => s.emitTo p (.writeStripe page line)
    | none => s
  striped.emitTo p .eject

/-- A job leaves its printer with the book given back (R133, R134, R138, R142). -/
def leave (s : State) (p : Printer) (j : Job) (st : JobState) (r : Reason) : State := (s.giveBack p j).endJob j st r

/-- The finish: no line is left WAITING, so the next line index stands past the last line (R138; log 14). -/
def finish (s : State) (p : Printer) (j : Job) : State := s.leave p { j with next := 13 } .done .complete

/-- PRINT_LINE with the job's current line number; the line becomes SENT (R132 step 2). -/
def sendLine (s : State) (p : Printer) (j : Job) (i : Nat) (l : JobLine) : State :=
  let number := (j.place.bind (·.line)).getD 1
  (s.setJob { j with lines := j.lines.set i { l with state := .sent } }).emitTo p (.printLine number l.text)

/-- A PRINTING job with no line SENT seeks its next line and sends it, a late one after its note (R132, R133). -/
def seekLine (s : State) (p : Printer) (j : Job) : State :=
  match nextWaiting j.lines j.next with
  | none => s.finish p j
  | some n =>
    let j := { j with next := n }
    match j.lines[n - 1]? with
    | none => s
    | some l =>
      match s.lateLine l with
      | none => s.sendLine p j (n - 1) l
      | some q =>
        if s.marginRoom then
          (s.append (noteDraft j q)).sendLine p j (n - 1) { l with noteSeq := some s.dju.nextSeq }
        else s.leave p j .failed .journalFull

/-- The printer's device state follows the state of its job (R106). -/
def setDevice (s : State) (p : Printer) (d : Device) : State := s.setPrinter p { s.printer p with device := d }

/-- The page-end rule at the end-of-page mark (R136). -/
def pageEnd (s : State) (p : Printer) (j : Job) : State :=
  match nextWaiting j.lines j.next, j.place with
  | none, _ => s.finish p j
  | some _, none => s
  | some _, some q =>
    if q.page < Config.pages then
      let sent := (s.emitTo p (.writeStripe (q.page + 1) 1)).emitTo p .eject
      let turned := sent.setJob { j with
        state := .pageTurn, place := some { page := q.page + 1, line := some 1 }, wait := some Config.bookWait }
      (turned.setDevice p .pageTurn).syncJobs j.station
    else (s.emitTo p .eject).endJob j .failed .bookFull

/-- What follows an answered line: the completion of a cancel (R142), the page end (R136) or the next line (R132). -/
def afterLine (s : State) (p : Printer) (j : Job) : State :=
  if j.cancelPending then s.leave p j .cancelled .host
  else
    match j.place.bind (·.line) with
    | none => s.pageEnd p j
    | some _ => s.seekLine p j

/-- LINE_DONE, confirming the SENT line of a PRINTING job (R134). -/
def lineDone (s : State) (p : Printer) (j : Job) : State :=
  match j.sentLine, j.place with
  | some (i, l), some q =>
    let done : JobLine := { l with state := .printed, printedAt := some (q.page, q.line.getD 1) }
    let posted := match l.posting with | some x => s.setPassbook x.seq (.printed s.dayNumber) | none => s
    let j := { j with place := some q.advance, printed := j.printed + 1 }
    match s.lateLine l with
    | none => ((posted.setJob { j with lines := j.lines.set i done })).afterLine p { j with lines := j.lines.set i done }
    | some x =>
      if posted.marginRoom then
        let noted := { j with lines := j.lines.set i { done with noteSeq := some posted.dju.nextSeq } }
        ((posted.append (noteDraft j x)).setJob noted).afterLine p noted
      else
        let unnoted := { j with lines := j.lines.set i done }
        (posted.setJob unnoted).leave p unnoted .failed .journalFull
  | _, _ => s

/-- PAGE_FULL: the SENT line returns to WAITING and the page ends (R135). -/
def pageFull (s : State) (p : Printer) (j : Job) : State :=
  match j.place with
  | some q =>
    let j := { j with lines := j.lines.map JobLine.unsent, place := some { q with line := none } }
    (s.setJob j).afterLine p j
  | none => s

/-! ### Books (R130, R131, R137) -/

/-- A wrong book: ejected and counted; the third fails the job, with a CLEAR to take the prompt down (R130, R137). -/
def wrongBook (s : State) (p : Printer) (j : Job) : State :=
  let r := s.printer p
  let ejected := (s.setPrinter p { r with wrongBooks := r.wrongBooks + 1 }).emitTo p .eject
  if r.wrongBooks + 1 < 3 then ejected else (ejected.sendClear p).endJob j .failed .wrongBook

/-- The right book: PRINTING at the stripe's place, the BOOK_IN notice, then the first line (R131, R137). -/
def rightBook (s : State) (p : Printer) (j : Job) (page line : Nat) : State :=
  let j := { j with state := .printing, place := some { page := page, line := some line }, wait := none }
  ((((s.setJob j).setDevice p .printing).syncJobs j.station).raise (.bookIn j.id j.station p page line)).seekLine p j

/-- A page of 1 to 32 and a line of 1 to 24 (R130). -/
def placeOk (page line : Nat) : Bool := 1 ≤ page && page ≤ Config.pages && 1 ≤ line && line ≤ Config.pageLines

/-- BOOK_IN as the bound job takes it (R130, R137); a job that expects no book discards it. -/
def bookInserted (s : State) (p : Printer) (j : Job) (book : Text) (page line : Nat) : State :=
  match j.state with
  | .started => if book = j.book ∧ placeOk page line = true then s.rightBook p j page line else s.wrongBook p j
  | .pageTurn =>
    if book = j.book ∧ placeOk page line = true then
      if j.place.map (·.page) = some page then s.rightBook p j page line else s.emitTo p .eject
    else s.wrongBook p j
  | _ => s

/-- The book wait or the page turn has run out: CLEAR takes the prompt down and the job fails with NO_BOOK (R139). -/
def waitRunOut (s : State) (j : Job) : State :=
  (match j.printer with | some p => s.sendClear p | none => s).closeJob j .failed .noBook

/-! ### Submission (R127 to R129) -/

/-- A full table gives up its oldest finished job (R127). -/
def makeRoom (jobs : List Job) : List Job :=
  if jobs.length < Config.jobCapacity then jobs else jobs.eraseP fun j => !j.state.unfinished

/-- Checks 4 to 6 of one line (R128). -/
def lineCheck (s : State) (l : SubmitLine) : Except Status Unit :=
  match l.seq with
  | none => .ok ()
  | some q =>
    match s.entry? q with
    | none => .error .notFound
    | some e =>
      if e.kind = .cashIn ∨ e.kind = .cashOut then
        if e.status = .live ∧ e.passbook = .none then .ok () else .error .lineTaken
      else .error .badField

/-- Checks 4 to 6, line by line in list order (R128). -/
def linesCheck (s : State) : List SubmitLine → Except Status Unit
  | [] => .ok ()
  | l :: rest =>
    match s.lineCheck l with
    | .error e => .error e
    | .ok () => s.linesCheck rest

/-- The line descriptor a submitted line becomes (R129). -/
def jobLine (s : State) (l : SubmitLine) : JobLine :=
  { text := l.text
    posting := l.seq.bind fun q => (s.entry? q).map fun e => { seq := q, till := e.till, day := e.day }
    state := .waiting, noteSeq := none, printedAt := none }

end State

/-- Check 1 of PRINT SUBMIT, the station given (R128). -/
def submitOk (charset : Nat) (f : PrintSubmitFields) : Bool :=
  textOk 0 12 12 f.book && 1 ≤ f.lines.length && f.lines.length ≤ 12 &&
    f.lines.all (fun l => textOk charset 1 40 l.text &&
      match l.seq with | some q => decide (1 ≤ q ∧ q ≤ Config.lastSeq) | none => true) &&
    distinct (f.lines.filterMap (·.seq))

/-- PRINT SUBMIT (R128, R129). -/
def printSubmit (f : PrintSubmitFields) (s : State) : Answer := do
  let st ← require (station? f.station) .badField
  need (submitOk (s.station st).setup.charset f = true) .badField
  need (s.dayState ≠ .unset) .dayUnset
  need ((s.atWork? st).isSome = true) .notPresent
  s.linesCheck f.lines
  need (s.pjq.jobs.length < Config.jobCapacity ∨ (s.pjq.jobs.any fun j => !j.state.unfinished) = true) .queueFull
  let kept := State.makeRoom s.pjq.jobs
  let id := nextId s.pjq.lastJob (kept.map (·.id))
  let j : Job :=
    { id := id, station := st, book := f.book, lines := f.lines.map s.jobLine, state := .queued, printer := none, next := 1,
      place := none, wait := none, cancelPending := false, printed := 0, reason := none }
  let joined := { s with pjq := { jobs := kept ++ [j], lastJob := id } }
  let pending := (f.lines.filterMap (·.seq)).foldl (fun (s : State) q => s.setPassbook q .pending) joined
  let picked := pending.pickPass
  return (picked, [u8 id, u8 (((picked.job? id).map Job.state).getD JobState.queued).code])

/-- PRINT CANCEL (R141). -/
def printCancel (f : JobFields) (s : State) : Answer := do
  need (1 ≤ f.job ∧ f.job ≤ 255) .badField
  let j ← require (s.job? f.job) .notFound
  match j.state with
  | .queued => return (s.endJob j .cancelled .host, [u8 1])
  | .started | .pageTurn =>
    return ((match j.printer with | some p => s.sendClear p | none => s).endJob j .cancelled .host, [u8 1])
  | .printing => return (s.setJob { j with cancelPending := true }, [u8 2])
  | .done | .failed | .cancelled => .error .wrongState

/-- A job's line as JOB STATUS reports it (R147). -/
def jobLineItems (l : JobLine) : List Item :=
  [u8 l.state.code] ++ optNum 4 (l.posting.map (·.seq)) ++ optNum 1 (l.posting.map (·.till.val)) ++
    optNum 2 (l.posting.map (·.day)) ++ optNum 4 l.noteSeq ++
    optNum 1 (l.printedAt.map (·.1)) ++ optNum 1 (l.printedAt.map (·.2))

/-- JOB STATUS: a finished job leaves the table as its reply is made (R147). R202's table names no next line index; its one byte,
as a line's or a number of items', is a DESIGN CHOICE (log 15). -/
def jobStatus (f : JobFields) (s : State) : Answer := do
  need (1 ≤ f.job ∧ f.job ≤ 255) .badField
  let j ← require (s.job? f.job) .notFound
  let after := if j.state.unfinished then s else s.setJobs (s.pjq.jobs.filter fun k => k.id != j.id)
  return (after,
    [u8 j.id, u8 (stationNo j.station), textItem 12 j.book, u8 j.state.code] ++ optNum 1 (j.reason.map Reason.code) ++
    optNum 1 (j.printer.map (·.val)) ++ optNum 2 j.wait ++ [flag j.cancelPending] ++
    placeItems j.place ++ [u8 j.next, u8 j.printed] ++ listOf j.lines jobLineItems)

def execPrintSubmit (r : Req PrintSubmitFields) (s : State) : Result := takeRequest 0x48 r s printSubmit
def execPrintCancel (r : Req JobFields) (s : State) : Result := takeRequest 0x49 r s printCancel
def execJobStatus (r : Req JobFields) (s : State) : Result := takeRequest 0x4A r s jobStatus

end Sys2Proof.Machine
end

