-- ==== Sys2Proof/Machine/Printers.lean ====
section
/-! DEFINITION. The printer controller: owners and holds, the printers' messages, coming online, probing, faults and reset (06). -/

namespace Sys2Proof.Machine

open Sys2Proof

/-! ### Requests -/

/-- POOL is 0, a station its number (R202). -/
def owner? (n : Nat) : Option Owner := if n = 0 then some .pool else (station? n).map Owner.station

/-- ASSIGN PRINTER (R108). -/
def assignPrinter (f : AssignPrinterFields) (s : State) : Answer := do
  let p ← require (printer? f.printer) .badField
  let owner ← require (owner? f.owner) .badField
  need ((s.printer p).bound = none) .busy
  let given := (s.setPrinter p { s.printer p with owner := owner }).pickPass
  return (given, [u8 owner.code])

/-- The printers a hold names: one, or all four by 255 (R109, R202). -/
def holdTargets (n : Nat) : Option (List Printer) :=
  if n = 255 then some (List.finRange 4) else (printer? n).map fun p => [p]

/-- The four hold flags, bit n for printer n (R109, R202). -/
def State.heldSet (s : State) : Nat :=
  ((List.finRange 4).map fun p => if (s.printer p).hold then 2 ^ p.val else 0).sum

def State.setHold (s : State) (on : Bool) (ps : List Printer) : State :=
  ps.foldl (fun (s : State) p => s.setPrinter p { s.printer p with hold := on }) s

/-- PRINTER HOLD (R109). -/
def printerHold (f : PrinterFields) (s : State) : Answer := do
  let ps ← require (holdTargets f.printer) .badField
  let held := s.setHold true ps
  return (held, [u8 held.heldSet])

/-- PRINTER FREE (R109). -/
def printerFree (f : PrinterFields) (s : State) : Answer := do
  let ps ← require (holdTargets f.printer) .badField
  let freed := (s.setHold false ps).pickPass
  return (freed, [u8 freed.heldSet])

/-- A printer out of service with a CLEAR to be sent every five seconds (R112, R114, R117). -/
def PrinterRec.out (r : PrinterRec) : PrinterRec :=
  { r with device := .offline, timer := Config.probeTime, probing := false, misses := 0, faultCode := none }

/-- PRINTER RESET (R117). -/
def printerReset (f : PrinterFields) (s : State) : Answer := do
  let p ← require (printer? f.printer) .badField
  need ((s.printer p).device = .fault) .wrongState
  let out := s.setPrinter p { (s.printer p).out with clears := 1 }
  return (out.emitTo p .clear, [])

/-- One printer as PRINTER STATUS reports it (R121). -/
def State.printerItems (s : State) (p : Printer) : List Item :=
  let r := s.printer p
  [u8 r.owner.code, flag r.hold, u8 r.device.code] ++
    optNum 1 r.bound ++ optNum 1 ((r.bound.bind s.job?).map fun j => j.state.code) ++
    [u8 r.misses, flag r.probing, u8 r.wrongBooks] ++ optNum 1 (r.faultCode.map FaultCode.code)

/-- PRINTER STATUS (R121). -/
def printerStatus (_ : NoFields) (s : State) : Answer :=
  let queued := (s.pjq.jobs.filter fun j => j.state == .queued).length
  .ok (s, listOf (List.finRange 4) s.printerItems ++ [u8 queued, u8 s.pjq.jobs.length])

def execAssignPrinter (r : Req AssignPrinterFields) (s : State) : Result := takeRequest 0x40 r s assignPrinter
def execPrinterHold (r : Req PrinterFields) (s : State) : Result := takeRequest 0x41 r s printerHold
def execPrinterFree (r : Req PrinterFields) (s : State) : Result := takeRequest 0x42 r s printerFree
def execPrinterReset (r : Req PrinterFields) (s : State) : Result := takeRequest 0x43 r s printerReset
def execPrinterStatus (r : Req NoFields) (s : State) : Result := takeRequest 0x44 r s printerStatus

namespace State

/-! ### Messages from a printer (R111) -/

/-- The sign of life of a message (R111). -/
def alive (s : State) (p : Printer) : State :=
  s.setPrinter p { s.printer p with misses := 0, probing := false, timer := Config.probeTime }

/-- The bound job of a printer. -/
def boundJob (s : State) (p : Printer) : Option Job := (s.printer p).bound.bind s.job?

/-- The bound job, where it is PRINTING: the jobs that do not expect a line's answer discard it (R134). -/
def printingJob (s : State) (p : Printer) : Option Job :=
  (s.boundJob p).bind fun j => if j.state = .printing then some j else none

/-- A message from a printer: discarded in OFFLINE and FAULT, else a sign of life and then `f` (R111). -/
def message (s : State) (p : Printer) (f : State → State) : State :=
  if (s.printer p).device.working then f (s.alive p) else s

/-- READY in OFFLINE: the printer comes online (R112). -/
def comeOnline (s : State) (p : Printer) : State :=
  let r := s.printer p
  let online := s.setPrinter p { r with
    device := .idle, clears := 0, probing := false, misses := 0, timer := Config.probeTime, wrongBooks := 0,
    faultCode := none }
  (online.raise (.printerOnline p r.owner)).pickPass

/-- The end of the job a printer was bound to, when one was (R114, R115, R116). -/
def failBound (s : State) (p : Printer) (r : Reason) : State :=
  match s.boundJob p with
  | some j => s.endJob j .failed r
  | none => s

/-- READY in a working state (R111): the answer to a CLEAR, or the sign that a busy printer has restarted (R116). -/
def readyAtWork (s : State) (p : Printer) : State :=
  let r := s.printer p
  if 0 < r.clears then s.setPrinter p { r with clears := r.clears - 1 }
  else
    match r.device with
    | .idle => s
    | _ => (s.raise (.printerOffline p true r.bound)).failBound p .printerLost

/-- READY (R111). -/
def takeReady (s : State) (p : Printer) : State :=
  match (s.printer p).device with
  | .offline => s.comeOnline p
  | _ => s.message p fun s => s.readyAtWork p

/-- BOOK_IN (R111, R130, R137). -/
def takeBookIn (s : State) (p : Printer) (book : Text) (page line : Nat) : State :=
  s.message p fun s =>
    match (s.printer p).device with
    | .idle => s.emitTo p .eject
    | _ =>
      match s.boundJob p with
      | some j => s.bookInserted p j book page line
      | none => s

/-- LINE_DONE (R111, R134). -/
def takeLineDone (s : State) (p : Printer) : State :=
  s.message p fun s =>
    match s.printingJob p with
    | some j => s.lineDone p j
    | none => s

/-- PAGE_FULL (R111, R135). -/
def takePageFull (s : State) (p : Printer) : State :=
  s.message p fun s =>
    match s.printingJob p with
    | some j => s.pageFull p j
    | none => s

/-- A FAULT in a working state (R115). -/
def failPrinter (s : State) (p : Printer) (code : FaultCode) : State :=
  let r := s.printer p
  let failed := s.setPrinter p { r with device := .fault, faultCode := some code, clears := 0, probing := false, misses := 0 }
  (failed.raise (.printerFault p code r.bound)).failBound p .printerFault

end State

/-- A FAULT whose code is not JAM, STRIPE or MECH is taken as MECH (R203). -/
def faultCodeOf : Nat → FaultCode
  | 1 => .jam
  | 2 => .stripe
  | _ => .mech

/-- READY (R111, R112, R116). -/
def execReady (p : Printer) (s : State) : Result := takeEvent s fun s => s.takeReady p

/-- BOOK_IN (R111, R130, R137). -/
def execBookIn (p : Printer) (book : Text) (page line : Nat) (s : State) : Result :=
  takeEvent s fun s => s.takeBookIn p book page line

/-- LINE_DONE (R111, R134). -/
def execLineDone (p : Printer) (s : State) : Result := takeEvent s fun s => s.takeLineDone p

/-- PAGE_FULL (R111, R135). -/
def execPageFull (p : Printer) (s : State) : Result := takeEvent s fun s => s.takePageFull p

/-- BOOK_OUT: a sign of life and nothing more (R111). -/
def execBookOut (p : Printer) (s : State) : Result := takeEvent s fun s => s.message p id

/-- FAULT (R115, R203). -/
def execFault (p : Printer) (code : Nat) (s : State) : Result :=
  takeEvent s fun s => s.message p fun s => s.failPrinter p (faultCodeOf code)

/-- PROBE_REPLY: a sign of life only (R111). -/
def execProbeReply (p : Printer) (s : State) : Result := takeEvent s fun s => s.message p id

/-- A printer message of an unlisted type: a sign of life, otherwise discarded (R203). -/
def execUnlistedPrinterMessage (p : Printer) (s : State) : Result := takeEvent s fun s => s.message p id

namespace State

/-! ### The tick (R112, R113, R114) -/

/-- The loss of a printer at its third missed probe (R114). -/
def losePrinter (s : State) (p : Printer) : State :=
  let r := s.printer p
  let lost := s.setPrinter p { r with
    device := .offline, probing := false, misses := 0, timer := Config.probeTime }
  (lost.raise (.printerOffline p false r.bound)).failBound p .printerLost

/-- The run-out of a working printer's probe timer (R113). -/
def probeRunOut (s : State) (p : Printer) : State :=
  let r := s.printer p
  if r.probing then
    if r.misses < 2 then
      (s.setPrinter p { r with misses := r.misses + 1, timer := Config.probeTime }).emitTo p .probe
    else s.losePrinter p
  else (s.setPrinter p { r with probing := true, timer := Config.probeTime }).emitTo p .probe

/-- The run-out of the timer in OFFLINE: CLEAR again (R112). -/
def clearRunOut (s : State) (p : Printer) : State :=
  (s.setPrinter p { s.printer p with clears := 1, timer := Config.probeTime }).emitTo p .clear

end State

end Sys2Proof.Machine
end

