-- ==== Sys2Proof/Machine/Limits.lean ====
section
/-! DEFINITION. The limit monitor: evaluation, trips, enforcement and the requests LIMIT SET, LIMIT CLEAR and LIMIT ARM (03). -/

namespace Sys2Proof.Machine

open Sys2Proof

/-- Settings applied at once (R57): the streak starts again, WATCHING with F = 0 becomes OFF, a trip stays. -/
def Monitor.apply (m : Monitor) (l : Limits) : Monitor :=
  { m with
    limits := l
    streak := 0
    streakDir := none
    live := false
    state := match m.state with
      | .watching => if l.filter = 0 then .off else .watching
      | x => x }

/-- The record after its till was found out of range in direction `d` (R52, R53): the streak goes on or starts again at
1, and trips the till when it reaches F. -/
def Monitor.outOfRange (m : Monitor) (d : Direction) : Monitor :=
  let n := if m.streakDir = some d then m.streak + 1 else 1
  { m with
    streak := n
    streakDir := some d
    live := true
    state := if n = m.limits.filter then .tripped d else m.state }

/-- The record after its till was found within its limits (R52). -/
def Monitor.within (m : Monitor) : Monitor := { m with streak := 0, streakDir := none, live := false }

/-- The class of a value against the limits in force (R52). -/
def Monitor.classOf (m : Monitor) (v : Nat) : Option Direction :=
  if m.limits.upper < v then some .high else if v < m.limits.lower then some .low else none

/-- Enforced high or low (R55). -/
def Monitor.enforces (m : Monitor) (d : Direction) : Bool := m.state == .tripped d && m.limits.enforce

namespace State

/-- Pending limits take effect when a count ends, and become absent (R58). -/
def applyPending (s : State) (t : Till) : State :=
  let m := s.monitor t
  match m.pending with
  | some l => s.setMonitor t { m.apply l with pending := none }
  | none => s

/-- A trip: the record, the LIMIT_TRIP notice, then the holder's indicator (R53). -/
def trip (s : State) (t : Till) (d : Direction) (v seq : Nat) : State :=
  let m := s.monitor t
  let tripped := s.setMonitor t (m.outOfRange d)
  (tripped.raise (.limitTrip t d v m.limits.lower m.limits.upper m.limits.filter (s.till t).holder seq)).syncHolder
    (s.till t).holder

/-- LMU's look at a till whose counts have changed; `seq` is the entry that recorded the change (R51, R52). -/
def evaluate (s : State) (t : Till) (seq : Nat) : State :=
  let m := s.monitor t
  match m.state, s.tillValue t with
  | .watching, some v =>
    match m.classOf v with
    | none => s.setMonitor t m.within
    | some d =>
      match (m.outOfRange d).state with
      | .tripped _ => s.trip t d v seq
      | _ => s.setMonitor t (m.outOfRange d)
  | _, _ => s

end State

/-- The items of a till's value; all zero bytes while it is absent (R25, R201). -/
def valueItem (v : Option Nat) : Item := u64 (v.getD 0)

/-- LIMIT SET (R57, R58). -/
def limitSet (f : LimitSetFields) (s : State) : Answer := do
  let t ← require (till? f.till) .badField
  need (f.lower ≤ Config.maxValue ∧ f.upper ≤ Config.maxValue ∧ f.lower < f.upper ∧ f.filter ≤ 15) .badField
  let l : Limits := { lower := f.lower, upper := f.upper, filter := f.filter, enforce := f.enforce }
  let m := s.monitor t
  if (s.till t).state = .counting then
    return (s.setMonitor t { m with pending := some l }, [u8 2, u8 m.state.code])
  else
    return (s.setMonitor t (m.apply l), [u8 1, u8 (m.apply l).state.code])

/-- LIMIT CLEAR (R59). -/
def limitClear (f : TillFields) (s : State) : Answer := do
  let t ← require (till? f.till) .badField
  let m := s.monitor t
  need (m.state = .tripped .high ∨ m.state = .tripped .low) .wrongState
  let cleared := s.setMonitor t { m with state := .off, streak := 0, streakDir := none, live := false }
  return (cleared.syncHolder (s.till t).holder, [valueItem (s.tillValue t)])

/-- LIMIT ARM (R60). -/
def limitArm (f : TillFields) (s : State) : Answer := do
  let t ← require (till? f.till) .badField
  let m := s.monitor t
  match m.state with
  | .watching => return (s, [u8 m.state.code])
  | .tripped _ => .error .wrongState
  | .off =>
    need (1 ≤ m.limits.filter) .wrongState
    let armed := { m with state := .watching, streak := 0, streakDir := none, live := false }
    return (s.setMonitor t armed, [u8 armed.state.code])

/-- What a refusal of LIMIT ARM carries behind its status: the monitor state, as its own rule R60 says, where R202 has
every refusal hold the status alone; the owning rule is taken before the general one (DEDUCED, log 25). A till number
out of range names no monitor. -/
def armRefusal (f : TillFields) (s : State) (e : Status) : List Item :=
  match till? f.till, e with
  | some t, .wrongState => [u8 (s.monitor t).state.code]
  | _, _ => []

def execLimitSet (r : Req LimitSetFields) (s : State) : Result := takeRequest 0x20 r s limitSet
def execLimitClear (r : Req TillFields) (s : State) : Result := takeRequest 0x21 r s limitClear
def execLimitArm (r : Req TillFields) (s : State) : Result := takeRequestWith armRefusal 0x22 r s limitArm

end Sys2Proof.Machine
end

