-- ==== Sys2Proof/Machine/Tills.lean ====
section
/-! DEFINITION. The till unit: taking and releasing tills, postings, voids, counts, transfers and TILL STATUS (02). -/

namespace Sys2Proof.Machine

open Sys2Proof

/-- A till that must be OPEN: a COUNTING one gives TILL_BUSY, any other WRONG_STATE (R31, R33, R36, R41). -/
def needOpen (x : TillState) : Except Status Unit :=
  match x with
  | .opened => .ok ()
  | .counting => .error .tillBusy
  | _ => .error .wrongState

/-! ### Taking and releasing (R29, R30) -/

namespace State

/-- The two sides of a hold, and the indicators that follow it (R26, R27). -/
def takeHoldOf (s : State) (st : Station) (t : Till) : State :=
  ((s.setTill t { s.till t with state := .opened, holder := some st }).setHeld st (some t)).syncHold st

/-- A hold ends with its till in state `x` (R30, R39). -/
def endHoldOf (s : State) (st : Station) (t : Till) (x : TillState) : State :=
  ((s.setTill t { s.till t with state := x, holder := none, count := none }).setHeld st none).syncHold st

/-- The lapse of a station's held till (R39). -/
def lapse (s : State) (st : Station) : State :=
  match s.held st with
  | some t => (s.endHoldOf st t .lapsed).applyPending t
  | none => s

end State

/-- TAKE TILL (R29). -/
def takeTill (f : StationTillFields) (s : State) : Answer := do
  let st ← require (station? f.station) .badField
  let t ← require (till? f.till) .badField
  need (s.dayState ≠ .unset) .dayUnset
  let o ← require (s.atWork? st) .notPresent
  need (o.held = none) .tillHeld
  need ((s.till t).state = .closed ∨ (s.till t).state = .lapsed) .wrongState
  need ((t = 0 ∨ (s.till t).state = .lapsed) → o.role = .supervisor) .role
  return ((s.takeHoldOf st t).gateCheck, [valueItem (s.tillValue t)])

/-- RELEASE TILL (R30). -/
def releaseTill (f : StationTillFields) (s : State) : Answer := do
  let st ← require (station? f.station) .badField
  let t ← require (till? f.till) .badField
  let _ ← require (s.atWork? st) .notPresent
  need ((s.till t).holder = some st) .notHolder
  need ((s.till t).state = .balanced) .wrongState
  return ((s.endHoldOf st t .closed).gateCheck, [])

/-! ### Postings (R31, R32) -/

/-- The kinds POST takes. -/
def postKind? : Nat → Option Kind
  | 1 => some .cashIn
  | 2 => some .cashOut
  | 3 => some .delivery
  | 4 => some .cashReturn
  | _ => none

/-- The kinds that raise a till's counts (R32). -/
def Kind.raises : Kind → Bool
  | .cashIn => true
  | .delivery => true
  | _ => false

/-- CASH_IN and CASH_OUT, the customer's kinds. -/
def Kind.customer : Kind → Bool
  | .cashIn => true
  | .cashOut => true
  | _ => false

/-- Check 5 of POST: the customer's kinds on tills 1 to 12, the others on till 0 (R31). -/
def kindSuits (k : Kind) (t : Till) : Bool := k.customer == (t != 0)

/-- The account ref of check 6 of POST (R31). -/
def accountOk (k : Kind) (a : Option Text) : Bool :=
  match a with
  | some t => k.customer && textOk 0 1 16 t
  | none => true

/-- A movement of counts: raised or lowered by a breakdown. -/
def moveCounts (up : Bool) (c : Counts) (b : List (Denom × Nat)) : Counts := if up then addCounts c b else subCounts c b

/-- The range check of a movement: COUNT_OVERFLOW when it raises, SHORT when it lowers (R31, R33). -/
def needRange (up : Bool) (c : Counts) (b : List (Denom × Nat)) : Except Status Unit :=
  if up then need (fitsIn c b = true) .countOverflow else need (covers c b = true) .short

/-- Limit enforcement of a movement (R55). -/
def needLimits (up : Bool) (m : Monitor) : Except Status Unit :=
  if up then need (m.enforces .high = false) .overLimit else need (m.enforces .low = false) .underLimit

namespace State

/-- An entry of a till that carries a breakdown and its amount (R10, R11). -/
def draftOf (s : State) (k : Kind) (st : Station) (t : Till) (b : List (Denom × Nat)) : Draft :=
  { station := st, kind := k, till := t, till2 := none, account := none, breakdown := some (signedPairs b),
    amount := some (s.amount b), ref := none, transferId := none }

/-- A posting applied: the counts and the entry (R32). -/
def postTo (s : State) (k : Kind) (st : Station) (t : Till) (b : List (Denom × Nat)) (a : Option Text) : State :=
  (s.setCounts t (moveCounts k.raises (s.till t).counts b)).append { s.draftOf k st t b with account := a }

end State

/-- POST (R31, R32). -/
def post (f : PostFields) (s : State) : Answer := do
  let st ← require (station? f.station) .badField
  let k ← require (postKind? f.kind) .badField
  let t ← require (till? f.till) .badField
  need (s.dayState ≠ .unset) .dayUnset
  let o ← require (s.atWork? st) .notPresent
  need (o.held = some t) .notHolder
  needOpen (s.till t).state
  need (kindSuits k t = true) .badField
  let b ← require (breakdown? f.breakdown) .badField
  need (accountOk k f.account = true) .badField
  needRange k.raises (s.till t).counts b
  needLimits k.raises (s.monitor t)
  need (s.customerRoom = true) .journalFull
  let posted := s.postTo k st t b f.account
  return (posted.evaluate t s.dju.nextSeq, [u32 s.dju.nextSeq, valueItem (posted.tillValue t)])

/-! ### Voids (R33, R34) -/

namespace State

/-- The posting's line is on its way to the paper (R33 check 11). -/
def inFlight (s : State) (e : Entry) : Bool :=
  decide (e.passbook = .pending) && s.pjq.jobs.any fun j =>
    j.state.unfinished && j.lines.any fun l => l.state == .sent && l.posting.any fun q => q.seq == e.seq

/-- A WAITING line of an unfinished job that names the posting is SKIPPED (R34, R144). -/
def skipLines (s : State) (seq : Nat) : State :=
  s.setJobs (s.pjq.jobs.map fun j =>
    if j.state.unfinished then
      { j with lines := j.lines.map fun l =>
          if l.state = .waiting ∧ (l.posting.any fun q => q.seq == seq) = true then { l with state := .skipped } else l }
    else j)

/-- The target after a VOID (R34). -/
def voidTarget (s : State) (e : Entry) : State :=
  match e.passbook with
  | .pending => (s.setEntry e.seq fun x => { x with status := .voided, passbook := .dropped }).skipLines e.seq
  | _ => s.setEntry e.seq fun x => { x with status := .voided }

/-- A VOID applied: the counts, the target, the VOID entry (R34). -/
def applyVoid (s : State) (st : Station) (e : Entry) (b : List (Denom × Nat)) : State :=
  let moved := s.setCounts e.till (moveCounts (!e.kind.raises) (s.till e.till).counts b)
  (moved.voidTarget e).append
    { station := st, kind := .void, till := e.till, till2 := none, account := none, breakdown := none, amount := none,
      ref := some e.seq, transferId := none }

end State

/-- VOID (R33, R34). -/
def void (f : VoidFields) (s : State) : Answer := do
  let st ← require (station? f.station) .badField
  need (1 ≤ f.seq ∧ f.seq ≤ Config.lastSeq) .badField
  need (s.dayState ≠ .unset) .dayUnset
  let o ← require (s.atWork? st) .notPresent
  let e ← require (s.entry? f.seq) .notFound
  need (e.kind.customer = true) .badField
  need (e.status = .live) .wrongState
  need (e.day = s.dayNumber) .oldDay
  need (o.held = some e.till) .notHolder
  need (o.role = .teller → e.station = st) .role
  needOpen (s.till e.till).state
  need (s.inFlight e = false) .inPrint
  let b := plainPairs (e.breakdown.getD [])
  needRange (!e.kind.raises) (s.till e.till).counts b
  need (s.customerRoom = true) .journalFull
  let voided := s.applyVoid st e b
  return (voided.evaluate e.till s.dju.nextSeq, [u32 s.dju.nextSeq, valueItem (voided.tillValue e.till)])

/-! ### Counts (R36 to R38) -/

/-- COUNT BEGIN (R36). -/
def countBegin (f : StationTillFields) (s : State) : Answer := do
  let st ← require (station? f.station) .badField
  let t ← require (till? f.till) .badField
  let _ ← require (s.atWork? st) .notPresent
  need ((s.till t).holder = some st) .notHolder
  needOpen (s.till t).state
  need (s.transferNames t = false) .transferPending
  let r := s.till t
  let counting := s.setTill t { r with state := .counting, count := some { book := r.counts, station := st, time := s.now } }
  return ((counting.syncHold st).gateCheck, [])

/-- The differences of a declaration: declared less book (R37). -/
def differences (declared book : Counts) : Vector Int 10 := Vector.ofFn fun d => (declared[d] : Int) - (book[d] : Int)

/-- The nonzero differences, in ascending denomination order (R11). -/
def differencePairs (v : Vector Int 10) : List (Denom × Int) :=
  (List.finRange 10).filterMap fun d => if v[d] = 0 then none else some (d, v[d])

/-- The signed value of differences (R11, R37). -/
def differenceTotal (faces : Counts) (v : Vector Int 10) : Int := ((List.finRange 10).map fun d => v[d] * Int.ofNat faces[d]).sum

namespace State

def faces (s : State) : Counts := s.tlu.denoms.getD (Vector.replicate 10 0)

/-- A count that found a difference: the ADJUST, the declared counts and the difference record (R37). -/
def adjust (s : State) (st : Station) (t : Till) (declared : Counts) (v : Vector Int 10) : State :=
  let total := differenceTotal s.faces v
  let appended := s.append
    { station := st, kind := .adjust, till := t, till2 := none, account := none, breakdown := some (differencePairs v),
      amount := some total, ref := none, transferId := none }
  appended.setTill t { appended.till t with
    counts := declared, diff := some { diffs := v, total := total, seq := s.dju.nextSeq, day := s.dayNumber } }

/-- The end of a count in BALANCED, less the look of the limit monitor (R37). -/
def balance (s : State) (st : Station) (t : Till) : State :=
  ((s.setTill t { s.till t with state := .balanced, count := none, unbalanced := false }).syncHold st).applyPending t

end State

/-- COUNT DECLARE (R37). -/
def countDeclare (f : CountDeclareFields) (s : State) : Answer := do
  let st ← require (station? f.station) .badField
  let t ← require (till? f.till) .badField
  let declared ← require (tenValues? 0 Config.maxCount f.counts) .badField
  let _ ← require (s.atWork? st) .notPresent
  need ((s.till t).holder = some st) .notHolder
  need ((s.till t).state = .counting) .wrongState
  let c ← require (s.till t).count .wrongState
  let v := differences declared c.book
  if differencePairs v = [] then
    let balanced := (s.setTill t { s.till t with diff := none }).balance st t
    return (balanced.gateCheck, [.int 8 0] ++ optNum 4 none ++ [valueItem (balanced.tillValue t)])
  else
    need (s.marginRoom = true) .journalFull
    let balanced := (s.adjust st t declared v).balance st t
    return ((balanced.evaluate t s.dju.nextSeq).gateCheck,
      [.int 8 (differenceTotal s.faces v)] ++ optNum 4 (some s.dju.nextSeq) ++ [valueItem (balanced.tillValue t)])

/-- COUNT ABANDON (R38). -/
def countAbandon (f : StationTillFields) (s : State) : Answer := do
  let st ← require (station? f.station) .badField
  let t ← require (till? f.till) .badField
  let _ ← require (s.atWork? st) .notPresent
  need ((s.till t).holder = some st) .notHolder
  need ((s.till t).state = .counting) .wrongState
  let opened := (s.setTill t { s.till t with state := .opened, count := none }).syncHold st
  return ((opened.applyPending t).gateCheck, [])

/-! ### Transfers (R41 to R44) -/

namespace State

def transfer? (s : State) (id : Nat) : Option Transfer := s.tlu.transfers.find? fun x => x.id == id

/-- A record leaves the table from wherever it stands (R40), and OFFER_WAITING is recomputed (R27). -/
def removeTransfer (s : State) (x : Transfer) : State :=
  (s.setTransfers (s.tlu.transfers.filter fun y => y.id != x.id)).syncOffers

/-- An offer applied: the counts, the TRANSFER_OUT and the record (R41). -/
def offer (s : State) (st : Station) (src dst : Till) (b : List (Denom × Nat)) (id : Nat) : State :=
  let moved := s.setCounts src (subCounts (s.till src).counts b)
  let appended := moved.append
    { s.draftOf .transferOut st src b with till2 := some dst, transferId := some id }
  let x : Transfer :=
    { id := id, source := src, destination := dst, breakdown := b, amount := s.amount b, station := st,
      offeredTo := (s.till dst).holder, outSeq := s.dju.nextSeq, remaining := Config.transferTime, waiting := false }
  { appended with tlu := { appended.tlu with
      transfers := appended.tlu.transfers ++ [x], lastTransfer := id } }.syncOffers

/-- The cash of a transfer enters till `t` by an entry of kind `k`; the record leaves the table (R42 to R44). -/
def settleTransfer (s : State) (x : Transfer) (k : Kind) (st : Station) (t other : Till) : State :=
  let moved := s.setCounts t (addCounts (s.till t).counts x.breakdown)
  (moved.append
    { station := st, kind := k, till := t, till2 := some other, account := none,
      breakdown := some (signedPairs x.breakdown), amount := some x.amount, ref := some x.outSeq,
      transferId := some x.id }).removeTransfer x

/-- The source can take the return and the journal has one free entry (R44). -/
def canReturn (s : State) (x : Transfer) : Bool := fitsIn (s.till x.source).counts x.breakdown && s.marginRoom

/-- The return of an expired transfer, whole: the gate is checked after the notice (R44, R155). -/
def returnTransfer (s : State) (x : Transfer) : State :=
  let back := s.settleTransfer x .transferBack x.station x.source x.destination
  ((back.evaluate x.source s.dju.nextSeq).raise
    (.transferExpired x.id x.source x.destination x.amount s.dju.nextSeq)).gateCheck

/-- A record whose time has run out: returned, or left waiting to be tried again at the next tick (R44). -/
def expire (s : State) (x : Transfer) : State :=
  if s.canReturn x then s.returnTransfer x
  else s.setTransfers (s.tlu.transfers.map fun y => if y.id == x.id then { y with remaining := 0, waiting := true } else y)

end State

/-- TRANSFER OFFER (R41). -/
def transferOffer (f : TransferOfferFields) (s : State) : Answer := do
  let st ← require (station? f.station) .badField
  let dst ← require (till? f.destination) .badField
  let b ← require (breakdown? f.breakdown) .badField
  need (s.dayState ≠ .unset) .dayUnset
  let o ← require (s.atWork? st) .notPresent
  let src ← require o.held .notHolder
  needOpen (s.till src).state
  need (dst ≠ src) .badField
  need ((s.till dst).state ≠ .counting) .tillBusy
  need (s.tlu.transfers.length < Config.transferCapacity) .tableFull
  needRange false (s.till src).counts b
  needLimits false (s.monitor src)
  need (s.customerRoom = true) .journalFull
  let id := nextId s.tlu.lastTransfer (s.tlu.transfers.map (·.id))
  let offered := s.offer st src dst b id
  return (offered.evaluate src s.dju.nextSeq, [u8 id, u32 s.dju.nextSeq, valueItem (offered.tillValue src)])

/-- The checks that ACCEPT and REJECT share (R42 checks 1 to 4, R43). -/
def transferChecks (f : StationTransferFields) (s : State) : Except Status (Station × Transfer) := do
  let st ← require (station? f.station) .badField
  need (1 ≤ f.transfer ∧ f.transfer ≤ 255) .badField
  let o ← require (s.atWork? st) .notPresent
  let x ← require (s.transfer? f.transfer) .notFound
  need (x.waiting = false) .notFound
  need (o.held = some x.destination) .notHolder
  return (st, x)

/-- TRANSFER ACCEPT (R42). -/
def transferAccept (f : StationTransferFields) (s : State) : Answer := do
  let (st, x) ← transferChecks f s
  let t := x.destination
  need ((s.till t).state = .opened) .wrongState
  needLimits true (s.monitor t)
  needRange true (s.till t).counts x.breakdown
  need (s.marginRoom = true) .journalFull
  let settled := s.settleTransfer x .transferIn st t x.source
  return ((settled.evaluate t s.dju.nextSeq).gateCheck, [u32 s.dju.nextSeq, valueItem (settled.tillValue t)])

/-- TRANSFER REJECT (R43). -/
def transferReject (f : StationTransferFields) (s : State) : Answer := do
  let (st, x) ← transferChecks f s
  let t := x.source
  needRange true (s.till t).counts x.breakdown
  need (s.marginRoom = true) .journalFull
  let settled := s.settleTransfer x .transferBack st t x.destination
  return ((settled.evaluate t s.dju.nextSeq).gateCheck, [u32 s.dju.nextSeq, valueItem (settled.tillValue t)])

/-! ### Status (R47) -/

/-- The monitor record (R49, R61). -/
def monitorItems (m : Monitor) : List Item :=
  let trip := match m.state with | .tripped d => some d | _ => none
  [u64 m.limits.lower, u64 m.limits.upper, u8 m.limits.filter, flag m.limits.enforce, u8 m.state.code, u8 m.streak] ++
    optNum 1 (m.streakDir.map Direction.code) ++ [flag m.live] ++ optNum 1 (trip.map Direction.code) ++
    optNum 8 (m.pending.map (·.lower)) ++ optNum 8 (m.pending.map (·.upper)) ++ optNum 1 (m.pending.map (·.filter)) ++
    optItem m.pending (u8 0) fun l => flag l.enforce

/-- TILL STATUS (R47): a transfer names the till as source 1 or destination 2. -/
def tillStatus (f : TillFields) (s : State) : Answer := do
  let t ← require (till? f.till) .badField
  let r := s.till t
  let named := s.tlu.transfers.filter fun x => x.source == t || x.destination == t
  return (s,
    [u8 r.state.code] ++ optStation r.holder ++ ten r.counts ++ optNum 8 (s.tillValue t) ++ ten r.opening ++
    optTen (r.count.map (·.book)) ++ optStation (r.count.map (·.station)) ++ optNum 4 (r.count.map (·.time)) ++
    optTenInt (r.diff.map (·.diffs)) ++ optInt 8 (r.diff.map (·.total)) ++ optNum 4 (r.diff.map (·.seq)) ++
    optNum 2 (r.diff.map (·.day)) ++ [flag r.unbalanced] ++
    listOf named (fun x => [u8 x.id, u8 (if x.source = t then 1 else 2)]) ++ monitorItems (s.monitor t) ++
    optTen s.tlu.branchOpening)

def execTakeTill (r : Req StationTillFields) (s : State) : Result := takeRequest 0x10 r s takeTill
def execReleaseTill (r : Req StationTillFields) (s : State) : Result := takeRequest 0x11 r s releaseTill
def execPost (r : Req PostFields) (s : State) : Result := takeRequest 0x12 r s post
def execVoid (r : Req VoidFields) (s : State) : Result := takeRequest 0x13 r s void
def execCountBegin (r : Req StationTillFields) (s : State) : Result := takeRequest 0x14 r s countBegin
def execCountDeclare (r : Req CountDeclareFields) (s : State) : Result := takeRequest 0x15 r s countDeclare
def execCountAbandon (r : Req StationTillFields) (s : State) : Result := takeRequest 0x16 r s countAbandon
def execTransferOffer (r : Req TransferOfferFields) (s : State) : Result := takeRequest 0x17 r s transferOffer
def execTransferAccept (r : Req StationTransferFields) (s : State) : Result := takeRequest 0x18 r s transferAccept
def execTransferReject (r : Req StationTransferFields) (s : State) : Result := takeRequest 0x19 r s transferReject
def execTillStatus (r : Req TillFields) (s : State) : Result := takeRequest 0x1A r s tillStatus

end Sys2Proof.Machine
end

