-- ==== Sys2Proof/Machine/Starts.lean ====
section
/-! DEFINITION. Starts: loss and return of main power, the RESET line and the RESTART request, the cold start and the restart (10, and each
chapter's start rules). -/

namespace Sys2Proof.Machine

open Sys2Proof

/-- The host-link rate the straps select (R200). -/
def rateOf (x : Straps) : Rate :=
  match x.rateB, x.rateA with
  | false, false => .r19200
  | false, true => .r38400
  | true, false => .r57600
  | true, true => .r115200

namespace State

/-! ### The working state (R196) -/

/-- A printer's record less what record memory keeps: owner and hold flag (R123). -/
def printerKept (r : PrinterRec) : PrinterRec := { PrinterRec.cold with owner := r.owner, hold := r.hold }

/-- A station's presence less the screen: a PRESENT station is VACANT until its screen answers (R82). -/
def presenceKept : Presence → Presence
  | .present => .vacant
  | p => p

/-- The working state of the blocks, which record memory does not hold, at what every start rebuilds (R48, R82, R104,
R123, R187, R196, R199). -/
def dropWorking (s : State) : State :=
  { s with
    links := Links.hunting
    hlc := { s.hlc with receive := .hunting, buffer := none, notices := [], overflow := false, restarting := false }
    tlu := { s.tlu with
      transfers := s.tlu.transfers.map fun x => { x with remaining := Config.transferTime, waiting := false } }
    stu := Vector.ofFn fun st => { s.station st with presence := presenceKept (s.presence st) }
    slc := { first := s.slc.first, last := s.slc.last, round := 0, walk := [], slot := none,
             lines := Vector.replicate 12 LineRec.cold }
    prc := Vector.ofFn fun p => printerKept (s.printer p)
    hos := { s.hos with next := none, window := [], ackTimer := none, holdTimer := none, test := LinkTest.cold } }

/-! ### The restart -/

/-- STU at a restart: a signed-on station is LOST, with a fresh grace (R82). -/
def loseStation (s : State) (st : Station) : State :=
  match s.signOn? st with
  | some o =>
    (s.setPresence st (.lost o Config.graceTime)).raise (.stationLost st o.operator o.held Config.graceTime true)
  | none => s

def restartStations (s : State) : State := (List.finRange 12).foldl (fun (s : State) st => s.loseStation st) s

/-- PJQ at a restart: the jobs that were bound end INTERRUPTED, in table order (R149). -/
def interruptJobs (s : State) : State :=
  (s.pjq.jobs.filter fun j => j.printer.isSome).foldl (fun (s : State) j => s.closeJob j .failed .interrupted) s

/-- The indicators at a restart: a LOST station's from the records that stand, any other's clear (R82, R104). -/
def restartIndicators (s : State) : State :=
  (List.finRange 12).foldl (fun (s : State) st =>
    s.setLine st { s.line st with
      indicators := if (s.signOn? st).isSome then s.indicatorsFrom st else 0 }) s

/-- HOS at a restart: a send under way is SUSPENDED (R187). -/
def restartSend (s : State) : State :=
  match s.hos.state with
  | .testing => s.suspend .restart .nothing
  | .sending => s.suspend .restart .nothing
  | .held => s.suspend .restart .nothing
  | _ => s

/-- CUT's gate check at a restart; an automatic start of the batch it may make waits for the end (R165, R168). -/
def restartCut (s : State) : State :=
  let cut := (s.setHos { s.hos with autoStart := false }).gateCheck
  cut.setHos { cut.hos with autoStart := s.hos.autoStart }

/-- START, with the values that stand after the start (R198). -/
def startNotice (s : State) (k : StartKind) (c : StartCause) : Notice :=
  .start k c s.hlc.clock.valid s.dayState (s.dju.day.map (·.number)) s.dju.cutRecord.isSome s.hos.state

/-- START goes to the head of the queue, before the notices of the wind-up (R198); they are at most 18 in all, and the
queue's bound is kept whatever the records hold (R191). -/
def announce (s : State) (k : StartKind) (c : StartCause) : State :=
  { s with hlc := { s.hlc with
      notices := ({ time := s.now, notice := s.startNotice k c } :: s.hlc.notices).take Config.noticeCapacity
      startKind := k, startCause := c } }

/-- The first slot of the first round (R83, R103, R104). -/
def beginRounds (s : State) : State :=
  nextSlot 10 { s with slc := { s.slc with round := 0, walk := scanOrder s.slc.first s.slc.last, slot := none } }

/-! ### RESET held (R197) -/

/-- What the asserted RESET input does: nothing is sent, every receiver drops what it had, and the notice queue is empty. -/
def silence (s : State) : State :=
  { s with
    sent := [], links := Links.hunting
    hlc := { s.hlc with receive := .hunting, buffer := none, notices := [] } }

/-- The ports after a start: the first slot and a send that waits for nothing more, or silence while RESET is held
(R104, R168, R197; log 9). -/
def openPorts (s : State) : State := if s.live then s.beginRounds.autoSend else s.silence

/-- A restart; record memory is intact and the clock as it runs (R197 to R199). -/
def restart (s : State) (c : StartCause) (x : Straps) : State :=
  let kept := s.quiet.dropWorking
  let rated := { kept with hlc := { kept.hlc with rate := rateOf x }, rcm := { matching := true } }
  let wound := rated.restartStations.interruptJobs.restartIndicators.restartSend.restartCut
  (wound.announce .restart c).openPorts

/-- A cold start: every record as after the first power-on (R23, R48, R62, R81, R103, R122, R148, R164, R186, R199), with
the ports silent while RESET is held (R197). -/
def coldStart (s : State) (x : Straps) : State :=
  let cold := { State.reset with pending := s.pending, ticks := s.ticks, pins := s.pins, hlc := Hlc.cold (rateOf x) }
  if cold.live then cold else cold.silence

def setPower (s : State) (powered : Bool) : State := { s with pins := { s.pins with powered := powered } }

def setReset (s : State) (held : Bool) : State := { s with pins := { s.pins with resetHeld := held } }

def stopClock (s : State) : State := { s with hlc := { s.hlc with clock := { time := 0, date := 0, valid := false } } }

end State

/-- POWER_ON (R193, R196, R197): RCM compares the check word, and the clock is invalid. A RESET input held low stays so,
and its release makes the restart of its own (log 9). -/
def execPowerOn (intact : Bool) (x : Straps) (s : State) : Result :=
  if s.pins.powered then .next s.quiet
  else
    let on := s.setPower true
    .next (if intact ∧ s.rcm.matching then on.stopClock.restart .powerOn x else on.coldStart x)

/-- LOSS_OF_MAIN_POWER (R196): record memory keeps what it holds; the rest is gone (log 22). -/
def execLossOfMainPower (s : State) : Result :=
  if s.pins.powered then .next (s.quiet.setPower false).dropWorking else .next s.quiet

/-- RESET_ASSERT (R197): the notice queue is emptied, and the part sends and takes nothing; without main power the input
is held low for the power-on (log 9). -/
def execResetAssert (s : State) : Result := .next (s.setReset true).silence

/-- RESET_RELEASE (R197): a restart, where main power is present and the input was held. -/
def execResetRelease (x : Straps) (s : State) : Result :=
  let released := s.quiet.setReset false
  .next (if s.pins.powered ∧ s.pins.resetHeld then released.restart .resetLine x else released)

/-- RESTART_BEGIN (R197): the last byte of the RESTART reply has left the line. -/
def execRestartBegin (x : Straps) (s : State) : Result :=
  if s.live ∧ s.hlc.restarting then .next (s.restart .request x) else .next s.quiet

end Sys2Proof.Machine
end

