-- ==== Sys2Proof/Machine/Ticks.lean ====
section
/-! DEFINITION. The one-second tick: the clock, the timers, and what each block does when one runs out (10 R193, and each chapter's tick
rules). -/

namespace Sys2Proof.Machine

open Sys2Proof

/-! ### The clock (R193) -/

/-- One second later; a clock that is invalid stands still. -/
def Clock.advance (c : Clock) : Clock :=
  if c.valid then
    if c.time < Config.lastSecond then { c with time := c.time + 1 }
    else { c with time := 0, date := if c.date < Config.lastDate then c.date + 1 else 0 }
  else c

namespace State

def advanceClock (s : State) : State := { s with hlc := { s.hlc with clock := s.hlc.clock.advance } }

/-! ### The timers, one second lower -/

/-- R44. -/
def lowerTransfer (x : Transfer) : Transfer := { x with remaining := x.remaining - 1 }

/-- R72. -/
def lowerPresence : Presence → Presence
  | .lost o g => .lost o (g - 1)
  | p => p

/-- R139. -/
def lowerJob (j : Job) : Job := { j with wait := j.wait.map (· - 1) }

/-- R112, R113: the timer does not run in FAULT. -/
def lowerPrinter (r : PrinterRec) : PrinterRec :=
  match r.device with
  | .fault => r
  | _ => { r with timer := r.timer - 1 }

/-- R175, R177, R181: each of HOS's timers holds a value only while it runs. -/
def lowerHos (h : Hos) : Hos :=
  { h with
    ackTimer := h.ackTimer.map (· - 1)
    holdTimer := h.holdTimer.map (· - 1)
    test := { h.test with echoTimer := h.test.echoTimer.map (· - 1) } }

/-- Every timer of the blocks, one second lower (R193). -/
def lowerTimers (s : State) : State :=
  { s with
    tlu := { s.tlu with transfers := s.tlu.transfers.map lowerTransfer }
    stu := Vector.ofFn fun st => { s.station st with presence := lowerPresence (s.presence st) }
    pjq := { s.pjq with jobs := s.pjq.jobs.map lowerJob }
    prc := Vector.ofFn fun p => lowerPrinter (s.printer p)
    hos := lowerHos s.hos }

/-! ### Grace expiry (R73) -/

/-- PJQ cancels the QUEUED jobs of a station, in table order (R143). -/
def cancelQueued (s : State) (st : Station) : State :=
  (s.pjq.jobs.filter fun j => j.station == st && j.state == .queued).foldl
    (fun (s : State) j => s.endJob j .cancelled .signedOff) s

/-- The forced sign-off, with the gate check at its end (R73, R155). -/
def forceSignOff (s : State) (st : Station) : State :=
  match s.signOn? st with
  | none => s
  | some o =>
    let queued := (s.pjq.jobs.filter fun j => j.station == st && j.state == .queued).length
    let cancelled := (s.lapse st).cancelQueued st
    let running := (cancelled.pjq.jobs.filter fun j => j.station == st && j.state.unfinished).map (·.id)
    let vacant := cancelled.setPresence st .vacant
    let cleared := vacant.setLine st { vacant.line st with indicators := 0 }
    (cleared.raise (.signoffForced st o.operator o.role o.held queued running)).gateCheck

/-! ### The blocks in a tick -/

/-- A LOST station whose grace has run out. -/
def graceDone (s : State) (st : Station) : Bool :=
  match s.presence st with
  | .lost _ g => g == 0
  | _ => false

/-- A printer whose timer has run out. -/
def printerDue (s : State) (p : Printer) : Bool :=
  let r := s.printer p
  r.timer == 0 && r.device != .fault

def printerRunOut (s : State) (p : Printer) : State :=
  match (s.printer p).device with
  | .offline => s.clearRunOut p
  | _ => s.probeRunOut p

/-- TLU: the records whose time has run out, and the waiting returns, in table order (R44). -/
def tickTlu (s : State) : State :=
  (s.tlu.transfers.filter fun x => x.remaining == 0).foldl (fun (s : State) x => s.expire x) s

/-- STU: the stations in ascending number (R72; log 5). -/
def tickStu (s : State) : State :=
  (List.finRange 12).foldl (fun (s : State) st => if s.graceDone st then s.forceSignOff st else s) s

/-- PJQ: the jobs in table order, then one pick pass (R139). -/
def tickPjq (s : State) : State :=
  let due := s.pjq.jobs.filter fun j => j.wait == some 0
  if due.isEmpty then s else (due.foldl (fun (s : State) j => s.waitRunOut j) s).pickPass

/-- PRC: the printers in ascending number (R112, R113; log 5). -/
def tickPrc (s : State) : State :=
  (List.finRange 4).foldl (fun (s : State) p => if s.printerDue p then s.printerRunOut p else s) s

/-- HOS: at most one of its timers runs (R175, R180, R181). -/
def tickHos (s : State) : State :=
  if s.hos.ackTimer = some 0 then s.ackRunOut
  else if s.hos.test.echoTimer = some 0 then s.echoRunOut
  else if s.hos.holdTimer = some 0 then s.holdRunOut
  else s

end State

/-- The blocks that act at a tick. -/
inductive TickBlock where
  | tlu | stu | pjq | prc | hos | cut
deriving DecidableEq, Repr

/-- A block has a timer that has run out, or CUT's trigger time has been met. -/
def TickBlock.due (b : TickBlock) (s : State) : Bool :=
  match b with
  | .tlu => s.tlu.transfers.any fun x => x.remaining == 0
  | .stu => (List.finRange 12).any s.graceDone
  | .pjq => s.pjq.jobs.any fun j => j.wait == some 0
  | .prc => (List.finRange 4).any s.printerDue
  | .hos => decide (s.hos.ackTimer = some 0 ∨ s.hos.test.echoTimer = some 0 ∨ s.hos.holdTimer = some 0)
  | .cut => s.meets.isSome

/-- A block takes its run-outs of the tick. -/
def TickBlock.run (b : TickBlock) (s : State) : State :=
  match b with
  | .tlu => s.tickTlu
  | .stu => s.tickStu
  | .pjq => s.tickPjq
  | .prc => s.tickPrc
  | .hos => s.tickHos
  | .cut => s.compareTrigger

def tickBlocks : List TickBlock := [.tlu, .stu, .pjq, .prc, .hos, .cut]

/-- The order in which the blocks of one tick act, drawn from the free value of the tick (log 4). -/
def orderBlocks (tick : Nat) : Nat → List TickBlock → List TickBlock
  | _, [] => []
  | _, [b] => [b]
  | 0, bs => bs
  | k + 1, bs =>
    let i := Config.tickPick tick bs.length % bs.length
    match bs[i]? with
    | some b => b :: orderBlocks tick k (bs.eraseIdx i)
    | none => bs

namespace State

/-- The run-outs of one tick, block by block (R193, log 4, log 6). -/
def runOuts (s : State) : State :=
  (orderBlocks s.ticks 6 (tickBlocks.filter fun b => b.due s)).foldl (fun (s : State) b => b.run s) s

/-- A tick that reaches the blocks: the clock, the timers, the run-outs (R193). -/
def tick (s : State) : State :=
  let ran := s.advanceClock.lowerTimers.runOuts
  { ran with ticks := s.ticks + 1 }

end State

/-- CLOCK_TICK (R193): while RESET is held the clock alone advances. -/
def execClockTick (s : State) : Result :=
  if s.pins.powered then
    if s.pins.resetHeld then .next s.quiet.advanceClock else .next s.quiet.tick
  else .next s.quiet

/-! ### The run-out of one timer: the tick as it reaches that timer alone (log 3) -/

/-- TRANSFER_EXPIRY (R44). -/
def execTransferExpiry (id : Nat) (s : State) : Result :=
  takeEvent s fun s =>
    match s.transfer? id with
    | some x => if x.remaining = 1 then s.expire { x with remaining := 0 } else s
    | none => s

/-- TRANSFER_RETURN_RETRY (R44). -/
def execTransferReturnRetry (id : Nat) (s : State) : Result :=
  takeEvent s fun s =>
    match s.transfer? id with
    | some x => if x.waiting then s.expire x else s
    | none => s

/-- GRACE_EXPIRY (R73). -/
def execGraceExpiry (st : Station) (s : State) : Result :=
  takeEvent s fun s =>
    match s.presence st with
    | .lost _ 1 => s.forceSignOff st
    | _ => s

/-- JOB_WAIT_TIMEOUT (R139). -/
def execJobWaitTimeout (id : Nat) (s : State) : Result :=
  takeEvent s fun s =>
    match s.job? id with
    | some j => if j.wait = some 1 then (s.waitRunOut j).pickPass else s
    | none => s

/-- PROBE_TIMER_RUNOUT (R113). -/
def execProbeTimerRunout (p : Printer) (s : State) : Result :=
  takeEvent s fun s =>
    if (s.printer p).device.working = true ∧ (s.printer p).timer = 1 then s.probeRunOut p else s

/-- OFFLINE_CLEAR_INTERVAL (R112). -/
def execOfflineClearInterval (p : Printer) (s : State) : Result :=
  takeEvent s fun s => if (s.printer p).device = .offline ∧ (s.printer p).timer = 1 then s.clearRunOut p else s

/-- ACK_TIMEOUT (R180). -/
def execAckTimeout (s : State) : Result :=
  takeEvent s fun s => if s.hos.ackTimer = some 1 then s.ackRunOut else s

/-- ECHO_TIMEOUT (R175). -/
def execEchoTimeout (s : State) : Result :=
  takeEvent s fun s => if s.hos.test.echoTimer = some 1 then s.echoRunOut else s

/-- HOLD_TIMEOUT (R181). -/
def execHoldTimeout (s : State) : Result :=
  takeEvent s fun s => if s.hos.holdTimer = some 1 then s.holdRunOut else s

/-- CUT_TRIGGER (R154): the second that brings the clock to the trigger time. -/
def execCutTrigger (s : State) : Result :=
  takeEvent s fun s =>
    match s.advanceClock.meets with
    | some a => s.advanceClock.trigger a
    | none => s

end Sys2Proof.Machine
end

