-- ==== Sys2Proof/Machine/Dispatch.lean ====
section
/-! DEFINITION. The meaning of every command: one arm per constructor. -/

namespace Sys2Proof.Machine

open Sys2Proof

/-- The effect of a command on everything but the queue. -/
def exec (i : Instr) (s : State) : Host.Outcome State Fault Refusal :=
  match i with
  | .denomSet r => Sys2Proof.Machine.execDenomSet r s
  | .openingSet r => Sys2Proof.Machine.execOpeningSet r s
  | .dayBegin r => Sys2Proof.Machine.execDayBegin r s
  | .dayStatus r => Sys2Proof.Machine.execDayStatus r s
  | .journalRead r => Sys2Proof.Machine.execJournalRead r s
  | .takeTill r => Sys2Proof.Machine.execTakeTill r s
  | .releaseTill r => Sys2Proof.Machine.execReleaseTill r s
  | .post r => Sys2Proof.Machine.execPost r s
  | .void r => Sys2Proof.Machine.execVoid r s
  | .countBegin r => Sys2Proof.Machine.execCountBegin r s
  | .countDeclare r => Sys2Proof.Machine.execCountDeclare r s
  | .countAbandon r => Sys2Proof.Machine.execCountAbandon r s
  | .transferOffer r => Sys2Proof.Machine.execTransferOffer r s
  | .transferAccept r => Sys2Proof.Machine.execTransferAccept r s
  | .transferReject r => Sys2Proof.Machine.execTransferReject r s
  | .tillStatus r => Sys2Proof.Machine.execTillStatus r s
  | .limitSet r => Sys2Proof.Machine.execLimitSet r s
  | .limitClear r => Sys2Proof.Machine.execLimitClear r s
  | .limitArm r => Sys2Proof.Machine.execLimitArm r s
  | .signOn r => Sys2Proof.Machine.execSignOn r s
  | .signOff r => Sys2Proof.Machine.execSignOff r s
  | .stationSetup r => Sys2Proof.Machine.execStationSetup r s
  | .stationStatus r => Sys2Proof.Machine.execStationStatus r s
  | .display r => Sys2Proof.Machine.execDisplay r s
  | .readInput r => Sys2Proof.Machine.execReadInput r s
  | .lineTestStart r => Sys2Proof.Machine.execLineTestStart r s
  | .lineTestStop r => Sys2Proof.Machine.execLineTestStop r s
  | .scanSet r => Sys2Proof.Machine.execScanSet r s
  | .scanStatus r => Sys2Proof.Machine.execScanStatus r s
  | .assignPrinter r => Sys2Proof.Machine.execAssignPrinter r s
  | .printerHold r => Sys2Proof.Machine.execPrinterHold r s
  | .printerFree r => Sys2Proof.Machine.execPrinterFree r s
  | .printerReset r => Sys2Proof.Machine.execPrinterReset r s
  | .printerStatus r => Sys2Proof.Machine.execPrinterStatus r s
  | .printSubmit r => Sys2Proof.Machine.execPrintSubmit r s
  | .printCancel r => Sys2Proof.Machine.execPrintCancel r s
  | .jobStatus r => Sys2Proof.Machine.execJobStatus r s
  | .cutArm r => Sys2Proof.Machine.execCutArm r s
  | .cutDisarm r => Sys2Proof.Machine.execCutDisarm r s
  | .cutStatus r => Sys2Proof.Machine.execCutStatus r s
  | .sendConfig r => Sys2Proof.Machine.execSendConfig r s
  | .sendStart r => Sys2Proof.Machine.execSendStart r s
  | .sendResume r => Sys2Proof.Machine.execSendResume r s
  | .sendRestart r => Sys2Proof.Machine.execSendRestart r s
  | .sendStatus r => Sys2Proof.Machine.execSendStatus r s
  | .readNotices r => Sys2Proof.Machine.execReadNotices r s
  | .timeSet r => Sys2Proof.Machine.execTimeSet r s
  | .identify r => Sys2Proof.Machine.execIdentify r s
  | .restart r => Sys2Proof.Machine.execRestart r s
  | .hostFrameError => Sys2Proof.Machine.execHostFrameError s
  | .unknownRequest type tag => Sys2Proof.Machine.execUnknownRequest type tag s
  | .hostFrameTimeout => Sys2Proof.Machine.execHostFrameTimeout s
  | .hostFrameOverrun => Sys2Proof.Machine.execHostFrameOverrun s
  | .powerOn intact straps => Sys2Proof.Machine.execPowerOn intact straps s
  | .resetAssert => Sys2Proof.Machine.execResetAssert s
  | .resetRelease straps => Sys2Proof.Machine.execResetRelease straps s
  | .restartBegin straps => Sys2Proof.Machine.execRestartBegin straps s
  | .clockTick => Sys2Proof.Machine.execClockTick s
  | .transferExpiry transfer => Sys2Proof.Machine.execTransferExpiry transfer s
  | .transferReturnRetry transfer => Sys2Proof.Machine.execTransferReturnRetry transfer s
  | .graceExpiry station => Sys2Proof.Machine.execGraceExpiry station s
  | .jobWaitTimeout job => Sys2Proof.Machine.execJobWaitTimeout job s
  | .probeTimerRunout printer => Sys2Proof.Machine.execProbeTimerRunout printer s
  | .offlineClearInterval printer => Sys2Proof.Machine.execOfflineClearInterval printer s
  | .ackTimeout => Sys2Proof.Machine.execAckTimeout s
  | .echoTimeout => Sys2Proof.Machine.execEchoTimeout s
  | .holdTimeout => Sys2Proof.Machine.execHoldTimeout s
  | .cutTrigger => Sys2Proof.Machine.execCutTrigger s
  | .screenReply reply => Sys2Proof.Machine.execScreenReply reply s
  | .slotReplyTimeout => Sys2Proof.Machine.execSlotReplyTimeout s
  | .linkFrameDiscarded port => Sys2Proof.Machine.execLinkFrameDiscarded port s
  | .linkFrameGapTimeout port => Sys2Proof.Machine.execLinkFrameGapTimeout port s
  | .ready printer => Sys2Proof.Machine.execReady printer s
  | .bookIn printer book page line => Sys2Proof.Machine.execBookIn printer book page line s
  | .lineDone printer => Sys2Proof.Machine.execLineDone printer s
  | .pageFull printer => Sys2Proof.Machine.execPageFull printer s
  | .bookOut printer => Sys2Proof.Machine.execBookOut printer s
  | .fault printer code => Sys2Proof.Machine.execFault printer code s
  | .probeReply printer => Sys2Proof.Machine.execProbeReply printer s
  | .unlistedPrinterMessage printer => Sys2Proof.Machine.execUnlistedPrinterMessage printer s
  | .ack block => Sys2Proof.Machine.execAck block s
  | .nak block => Sys2Proof.Machine.execNak block s
  | .hold => Sys2Proof.Machine.execHold s
  | .go => Sys2Proof.Machine.execGo s
  | .reject code => Sys2Proof.Machine.execReject code s
  | .echo chars => Sys2Proof.Machine.execEcho chars s
  | .carrierArrival => Sys2Proof.Machine.execCarrierArrival s
  | .carrierLoss => Sys2Proof.Machine.execCarrierLoss s
  | .lossOfMainPower => Sys2Proof.Machine.execLossOfMainPower s

end Sys2Proof.Machine
end

