-- ==== Sys2Proof/WellFormed.lean ====
section
/-! DEFINITION. Well-formed commands: every operand fits the bytes its frame gives it (11). What the owning rule asks beyond that is the
command's own check. -/

namespace Sys2Proof

def byteOk (n : Nat) : Bool := n < 256
def twoOk (n : Nat) : Bool := n < 65536
def fourOk (n : Nat) : Bool := n < 4294967296
def eightOk (n : Nat) : Bool := n < 18446744073709551616

/-- A tag of one byte and well-formed fields. -/
def Req.wf {α : Type} (f : α → Bool) (r : Req α) : Bool := byteOk r.tag && r.fields.all f

/-- Pairs of a denomination byte and a four-byte value, at most as many as a count byte names. -/
def pairsOk (ps : List (Nat × Nat)) : Bool := byteOk ps.length && ps.all fun p => byteOk p.1 && fourOk p.2

def NoFields.wf (_ : NoFields) : Bool := true
def StationTillFields.wf (f : StationTillFields) : Bool := byteOk f.station && byteOk f.till
def StationFields.wf (f : StationFields) : Bool := byteOk f.station
def TillFields.wf (f : TillFields) : Bool := byteOk f.till
def PrinterFields.wf (f : PrinterFields) : Bool := byteOk f.printer
def JobFields.wf (f : JobFields) : Bool := byteOk f.job
def StationTransferFields.wf (f : StationTransferFields) : Bool := byteOk f.station && byteOk f.transfer

def SubmitLine.wf (l : SubmitLine) : Bool := l.text.length ≤ 40 && l.seq.all fourOk

/-- The content of a screen's reply within its body of at most 82 bytes. -/
def ReplyContent.wf : ReplyContent → Bool
  | .nothing => true
  | .entry kind _ text => byteOk kind && text.length ≤ 64
  | .echo chars => chars.length ≤ 82

/-- Every operand of a command fits its field. -/
def Instr.wf : Instr → Bool
  | .denomSet r => r.wf fun f => pairsOk f.faces
  | .openingSet r => r.wf fun f => byteOk f.till && pairsOk f.counts
  | .dayBegin r => r.wf fun f => f.branch.length == 6 && twoOk f.day
  | .dayStatus r => r.wf NoFields.wf
  | .journalRead r => r.wf fun f => fourOk f.start && byteOk f.maximum
  | .takeTill r => r.wf StationTillFields.wf
  | .releaseTill r => r.wf StationTillFields.wf
  | .post r => r.wf fun f =>
      byteOk f.station && byteOk f.kind && byteOk f.till && pairsOk f.breakdown && f.account.all fun a => a.length ≤ 16
  | .void r => r.wf fun f => byteOk f.station && fourOk f.seq
  | .countBegin r => r.wf StationTillFields.wf
  | .countDeclare r => r.wf fun f => byteOk f.station && byteOk f.till && pairsOk f.counts
  | .countAbandon r => r.wf StationTillFields.wf
  | .transferOffer r => r.wf fun f => byteOk f.station && byteOk f.destination && pairsOk f.breakdown
  | .transferAccept r => r.wf StationTransferFields.wf
  | .transferReject r => r.wf StationTransferFields.wf
  | .tillStatus r => r.wf TillFields.wf
  | .limitSet r => r.wf fun f => byteOk f.till && eightOk f.lower && eightOk f.upper && byteOk f.filter
  | .limitClear r => r.wf TillFields.wf
  | .limitArm r => r.wf TillFields.wf
  | .signOn r => r.wf fun f => byteOk f.station && f.operator.length ≤ 8 && byteOk f.role
  | .signOff r => r.wf StationFields.wf
  | .stationSetup r => r.wf fun f =>
      byteOk f.station && byteOk f.rows && byteOk f.columns && byteOk f.charset && byteOk f.mask
  | .stationStatus r => r.wf StationFields.wf
  | .display r => r.wf fun f =>
      byteOk f.station && byteOk f.row && byteOk f.column && byteOk f.attr && f.text.length ≤ 80
  | .readInput r => r.wf fun f => byteOk f.station && byteOk f.maximum
  | .lineTestStart r => r.wf StationFields.wf
  | .lineTestStop r => r.wf StationFields.wf
  | .scanSet r => r.wf fun f => byteOk f.first && byteOk f.last
  | .scanStatus r => r.wf NoFields.wf
  | .assignPrinter r => r.wf fun f => byteOk f.printer && byteOk f.owner
  | .printerHold r => r.wf PrinterFields.wf
  | .printerFree r => r.wf PrinterFields.wf
  | .printerReset r => r.wf PrinterFields.wf
  | .printerStatus r => r.wf NoFields.wf
  | .printSubmit r => r.wf fun f =>
      byteOk f.station && f.book.length ≤ 12 && byteOk f.lines.length && f.lines.all SubmitLine.wf
  | .printCancel r => r.wf JobFields.wf
  | .jobStatus r => r.wf JobFields.wf
  | .cutArm r => r.wf fun f => byteOk f.mode && f.time.all fourOk
  | .cutDisarm r => r.wf NoFields.wf
  | .cutStatus r => r.wf NoFields.wf
  | .sendConfig r => r.wf fun f => byteOk f.threshold
  | .sendStart r => r.wf NoFields.wf
  | .sendResume r => r.wf NoFields.wf
  | .sendRestart r => r.wf NoFields.wf
  | .sendStatus r => r.wf NoFields.wf
  | .readNotices r => r.wf fun f => byteOk f.maximum
  | .timeSet r => r.wf fun f => fourOk f.time && twoOk f.date
  | .identify r => r.wf NoFields.wf
  | .restart r => r.wf NoFields.wf
  | .hostFrameError => true
  | .unknownRequest type tag => byteOk type && byteOk tag
  | .hostFrameTimeout => true
  | .hostFrameOverrun => true
  | .powerOn _ _ => true
  | .resetAssert => true
  | .resetRelease _ => true
  | .restartBegin _ => true
  | .clockTick => true
  | .transferExpiry t => 1 ≤ t && byteOk t
  | .transferReturnRetry t => 1 ≤ t && byteOk t
  | .graceExpiry _ => true
  | .jobWaitTimeout j => 1 ≤ j && byteOk j
  | .probeTimerRunout _ => true
  | .offlineClearInterval _ => true
  | .ackTimeout => true
  | .echoTimeout => true
  | .holdTimeout => true
  | .cutTrigger => true
  | .screenReply r => byteOk r.station && r.content.wf
  | .slotReplyTimeout => true
  | .linkFrameDiscarded _ => true
  | .linkFrameGapTimeout _ => true
  | .ready _ => true
  | .bookIn _ book page line => book.length == 12 && byteOk page && byteOk line
  | .lineDone _ => true
  | .pageFull _ => true
  | .bookOut _ => true
  | .fault _ code => byteOk code
  | .probeReply _ => true
  | .unlistedPrinterMessage _ => true
  | .ack block => twoOk block
  | .nak block => twoOk block
  | .hold => true
  | .go => true
  | .reject code => byteOk code
  | .echo chars => chars.length ≤ 850
  | .carrierArrival => true
  | .carrierLoss => true
  | .lossOfMainPower => true

end Sys2Proof
end

