-- ==== Sys2Proof/Machine/Layouts.lean ====
section
/-! DEFINITION. The bytes of what the part sends: field forms, posting records, notices, host frames, screen frames, printer messages and
head-office blocks, with the check they carry (R189, R201 to R203, 11). -/

namespace Sys2Proof.Machine

open Sys2Proof

/-! ### Numbers, texts, the check -/

/-- A number in `width` bytes, more significant byte first (R201). -/
def numBytes : Nat → Nat → Text
  | 0, _ => []
  | w + 1, n => BitVec.ofNat 8 (n / 256 ^ w) :: numBytes w n

/-- A signed number in two's complement in `width` bytes (R201). -/
def intBytes (width : Nat) (z : Int) : Text := numBytes width (z % (256 ^ width : Nat)).toNat

/-- One byte of the CRC-16, most significant bit first: `n` bits of `b` are still to enter (R189). -/
def crcBits : Nat → Byte → BitVec 16 → BitVec 16
  | 0, _, c => c
  | n + 1, b, c =>
    let shifted := c <<< 1
    crcBits n b (if xor (c.getLsbD 15) (b.getLsbD n) then shifted ^^^ 0x1021#16 else shifted)

/-- CRC-16, x^16 + x^12 + x^5 + 1 from 0xFFFF, with no final inversion (R189). -/
def crc16 (bytes : Text) : BitVec 16 := bytes.foldl (fun c b => crcBits 8 b c) 0xFFFF#16

/-- Bytes followed by their check, more significant byte first (R189, R203). -/
def checked (bytes : Text) : Text := bytes ++ numBytes 2 (crc16 bytes).toNat

/-! ### Records -/

/-- A text at the full width of its field (R201). -/
def textBytes (width : Nat) (t : Text) : Text := BitVec.ofNat 8 t.length :: t ++ List.replicate (width - t.length) 0

def Passbook.code : Passbook → Nat
  | .none => 0 | .pending => 1 | .printed _ => 2 | .dropped => 3

def EntryStatus.code : EntryStatus → Nat
  | .live => 0 | .voided => 1

/-- The day of a printed posting. -/
def Passbook.day? : Passbook → Option Nat
  | .printed d => some d
  | _ => Option.none

def bitIf (b : Bool) (n : Nat) : Nat := if b then 2 ^ n else 0

/-- The presence byte of a posting record (11). -/
def presenceOf (e : Entry) (printedDay : Bool) : Nat :=
  bitIf e.till2.isSome 0 + bitIf e.account.isSome 1 + bitIf e.breakdown.isSome 2 + bitIf e.ref.isSome 3 +
    bitIf printedDay 4 + bitIf e.transferId.isSome 5

/-- A posting record, given its presence byte, offset 18 and offsets 19 and 20 (11 "The posting record"). -/
def entryBytes (e : Entry) (presence passbook day : Nat) : Text :=
  let pairs := e.breakdown.getD []
  numBytes 2 e.size ++ numBytes 4 e.seq ++ numBytes 2 e.day ++ numBytes 4 e.time ++
    [BitVec.ofNat 8 (stationNo e.station), BitVec.ofNat 8 e.kind.code, BitVec.ofNat 8 e.till.val,
      BitVec.ofNat 8 ((e.till2.map (·.val)).getD 0), BitVec.ofNat 8 presence, BitVec.ofNat 8 e.status.code,
      BitVec.ofNat 8 passbook] ++
    numBytes 2 day ++ numBytes 1 (e.transferId.getD 0) ++ numBytes 4 (e.ref.getD 0) ++ intBytes 8 (e.amount.getD 0) ++
    textBytes 16 (e.account.getD []) ++ numBytes 1 pairs.length ++
    (pairs.map fun p => BitVec.ofNat 8 p.1.val :: intBytes 4 p.2).flatten

/-- A posting record as JOURNAL READ returns it. -/
def Entry.bytes (e : Entry) : Text :=
  entryBytes e (presenceOf e e.passbook.day?.isSome) e.passbook.code (e.passbook.day?.getD 0)

/-- A posting record in a postings block: offset 18 is the printed flag, offsets 19 and 20 are zero (11). -/
def Entry.blockBytes (e : Entry) : Text := entryBytes e (presenceOf e false) (if e.passbook.day?.isSome then 1 else 0) 0

/-- A field that is no record and no notice. -/
def Item.plainBytes : Item → Text
  | .num w n => numBytes w n
  | .int w z => intBytes w z
  | .raw b => b
  | .posting _ => []
  | .notice _ => []

/-- A notice: kind, time, length and fields (11). -/
def Raised.bytes (r : Raised) : Text :=
  let fields := (r.notice.items.map Item.plainBytes).flatten
  numBytes 1 r.notice.code ++ numBytes 4 r.time ++ numBytes 1 fields.length ++ fields

def Item.bytes : Item → Text
  | .posting e => e.bytes
  | .notice r => r.bytes
  | i => i.plainBytes

/-- A reply frame (R189, 11 "The host frame"). -/
def Reply.bytes (r : Reply) : Text :=
  let payload := BitVec.ofNat 8 r.status.code :: (r.items.map Item.bytes).flatten
  0xA5 :: checked (numBytes 2 (payload.length + 2) ++ numBytes 1 r.type ++ numBytes 1 r.tag ++ payload)

/-! ### The screen line -/

def InputAnswer.code : InputAnswer → Nat
  | .none => 0 | .taken false => 1 | .taken true => 2 | .notTaken false => 3 | .notTaken true => 4

def ScreenBody.code : ScreenBody → Nat
  | .poll => 1 | .status _ => 2 | .update _ => 3 | .test _ => 4

def ScreenBody.bytes : ScreenBody → Text
  | .poll => []
  | .status x =>
    [x.indicators, x.setup.mask, BitVec.ofNat 8 x.setup.rows, BitVec.ofNat 8 x.setup.columns,
      BitVec.ofNat 8 x.setup.charset]
  | .update u =>
    [BitVec.ofNat 8 u.row, BitVec.ofNat 8 u.column, BitVec.ofNat 8 u.attr, BitVec.ofNat 8 u.text.length] ++ u.text
  | .test chars => chars

/-- A frame to a screen (11 "Screen line"). -/
def screenFrame (st : Station) (b : ScreenBody) (a : InputAnswer) : Text :=
  0x5A :: checked ([BitVec.ofNat 8 (stationNo st), BitVec.ofNat 8 b.code, BitVec.ofNat 8 a.code,
    BitVec.ofNat 8 b.bytes.length] ++ b.bytes)

/-! ### Printer ports -/

def PrinterMessage.code : PrinterMessage → Nat
  | .showInsert _ => 0x01 | .printLine _ _ => 0x02 | .writeStripe _ _ => 0x03 | .eject => 0x04 | .clear => 0x05
  | .probe => 0x06

def PrinterMessage.bytes : PrinterMessage → Text
  | .showInsert book => book
  | .printLine n t => BitVec.ofNat 8 n :: BitVec.ofNat 8 t.length :: t
  | .writeStripe p l => [BitVec.ofNat 8 p, BitVec.ofNat 8 l]
  | _ => []

/-- A message to a printer (11 "Printer ports"). -/
def printerFrame (m : PrinterMessage) : Text :=
  0x3C :: checked ([BitVec.ofNat 8 m.code, BitVec.ofNat 8 m.bytes.length] ++ m.bytes)

/-! ### The head-office link -/

def countsBytes (width : Nat) (c : Counts) : Text := (c.toList.map (numBytes width)).flatten

def tillSnapBytes (t : Nat) (x : TillSnap) : Text :=
  [BitVec.ofNat 8 t, BitVec.ofNat 8 x.state.code, BitVec.ofNat 8 ((x.holder.map stationNo).getD 0)] ++
    countsBytes 2 x.counts ++ numBytes 8 x.value ++ countsBytes 2 x.opening ++ numBytes 1 x.cls.code

def transitBytes (x : TransitSnap) : Text :=
  [BitVec.ofNat 8 x.id, BitVec.ofNat 8 x.source.val, BitVec.ofNat 8 x.destination.val] ++ numBytes 4 x.outSeq ++
    numBytes 8 x.amount ++ numBytes 1 (if x.waiting then 1 else 0) ++ numBytes 1 x.breakdown.length ++
    (x.breakdown.map fun p => BitVec.ofNat 8 p.1.val :: numBytes 4 p.2).flatten

def BlockBody.code : BlockBody → Nat
  | .header .. => 1 | .postings _ => 2 | .tills .. => 3 | .transit _ => 4 | .trailer .. => 5

def BlockBody.bytes : BlockBody → Text
  | .header cutSeq cutTime p n => numBytes 4 cutSeq ++ numBytes 4 cutTime ++ numBytes 2 p ++ numBytes 2 n
  | .postings es => numBytes 1 es.length ++ (es.map Entry.blockBytes).flatten
  | .tills first snaps =>
    numBytes 1 snaps.length ++ (snaps.zipIdx.map fun p => tillSnapBytes (first + p.2) p.1).flatten
  | .transit snaps => numBytes 1 snaps.length ++ (snaps.map transitBytes).flatten
  | .trailer n cashIn cashOut position =>
    numBytes 2 n ++ intBytes 8 cashIn ++ intBytes 8 cashOut ++ countsBytes 4 position

/-- The block envelope and the kind body (11 "Head-office link"). -/
def Block.bytes (b : Block) : Text :=
  b.branch ++ numBytes 2 b.day ++ numBytes 2 b.number ++ numBytes 1 b.body.code ++ b.body.bytes

/-- A message to the line unit (11 "Head-office link"). -/
def lineFrame (type : Nat) (body : Text) : Text := 0x96 :: checked (numBytes 1 type ++ numBytes 2 body.length ++ body)

/-- The bytes of what the part sends, each on its own port. -/
def Sent.bytes : Sent → Text
  | .reply r => r.bytes
  | .screen st b a => screenFrame st b a
  | .printer _ m => printerFrame m
  | .block b => lineFrame 0x01 b.bytes
  | .test chars => lineFrame 0x02 chars

end Sys2Proof.Machine
end

