-- ==== Sys2Proof/Machine/Frames.lean ====
section
/-! DEFINITION. The bytes the part receives: the payloads of requests, the host line character by character, and the frames of the other
links, each read into the command it spells (R188, R189, R201 to R203, 11). -/

namespace Sys2Proof.Machine

open Sys2Proof

/-! ### Field forms of a request payload (R201, R202; log 16) -/

/-- A reader of fields: what it reads and the bytes left, or none where the bytes do not have its form. -/
abbrev Reader (α : Type) := Text → Option (α × Text)

def readThen {α β : Type} (r : Reader α) (f : α → Reader β) : Reader β := fun bytes =>
  match r bytes with
  | some (a, rest) => f a rest
  | none => none

def readPure {α : Type} (a : α) : Reader α := fun bytes => some (a, bytes)

/-- `n` bytes as they stand. -/
def readBytes (n : Nat) : Reader Text := fun bytes =>
  if n ≤ bytes.length then some (bytes.take n, bytes.drop n) else none

/-- The number some bytes spell, more significant byte first (R201). -/
def bytesNum (bytes : Text) : Nat := bytes.foldl (fun n b => 256 * n + b.toNat) 0

def readNum (width : Nat) : Reader Nat := readThen (readBytes width) fun b => readPure (bytesNum b)

/-- A flag or a presence byte is 0 or 1 (R202). -/
def readFlag : Reader Bool := fun bytes =>
  match readNum 1 bytes with
  | some (0, rest) => some (false, rest)
  | some (1, rest) => some (true, rest)
  | _ => none

/-- A text: a length of at most `width`, the characters, and zero bytes to the end of the run (R201). -/
def readText (width : Nat) : Reader Text := fun bytes =>
  match readNum 1 bytes with
  | some (n, rest) =>
    let run := rest.take width
    if n ≤ width ∧ run.length = width ∧ (run.drop n).all (· == 0) then some (run.take n, rest.drop width) else none
  | none => none

/-- An optional field: its presence byte and the field, all zero bytes when absent (R201, R202). -/
def readOpt {α : Type} (width : Nat) (r : Reader α) : Reader (Option α) := fun bytes =>
  match readFlag bytes with
  | some (true, rest) => (r rest).map fun p => (some p.1, p.2)
  | some (false, rest) =>
    if width ≤ rest.length ∧ (rest.take width).all (· == 0) then some (none, rest.drop width) else none
  | none => none

/-- `n` items one after another. -/
def readMany {α : Type} (r : Reader α) : Nat → Reader (List α)
  | 0 => readPure []
  | n + 1 => readThen r fun a => readThen (readMany r n) fun as => readPure (a :: as)

/-- A list: its count and its items (R202). -/
def readList {α : Type} (r : Reader α) : Reader (List α) := readThen (readNum 1) fun n => readMany r n

/-- (denomination, value) pairs, of a breakdown or of ten values (R202). -/
def readPairs : Reader (List (Nat × Nat)) :=
  readList (readThen (readNum 1) fun d => readThen (readNum 4) fun v => readPure (d, v))

/-- The whole payload and nothing more; none where its size or a form does not suit (R190, R201). -/
def readAll {α : Type} (r : Reader α) (payload : Text) : Option α :=
  match r payload with
  | some (a, []) => some a
  | _ => none

def one {α : Type} (f : Nat → α) : Reader α := readThen (readNum 1) fun a => readPure (f a)
def two {α : Type} (f : Nat → Nat → α) : Reader α := readThen (readNum 1) fun a => one (f a)

def stationTill : Reader StationTillFields := two .mk
def stationTransfer : Reader StationTransferFields := two .mk
def stationOnly : Reader StationFields := one .mk
def tillOnly : Reader TillFields := one .mk
def printerOnly : Reader PrinterFields := one .mk
def jobOnly : Reader JobFields := one .mk
def noFields : Reader NoFields := readPure .mk

def submitLine : Reader SubmitLine :=
  readThen (readText 40) fun t => readThen (readOpt 4 (readNum 4)) fun q => readPure ⟨t, q⟩

/-- A request of `tag` whose payload is read by `r`. -/
def reqOf {α : Type} (r : Reader α) (tag : Nat) (payload : Text) : Req α := { tag := tag, fields := readAll r payload }

/-- The command of a checked host frame: its type, tag and payload (11 "The host frame", R189). -/
def requestOf (type tag : Nat) (p : Text) : Instr :=
  match type with
  | 0x01 => .denomSet (reqOf (readThen readPairs fun x => readPure ⟨x⟩) tag p)
  | 0x02 => .openingSet (reqOf (readThen (readNum 1) fun t => readThen readPairs fun x => readPure ⟨t, x⟩) tag p)
  | 0x03 => .dayBegin (reqOf (readThen (readBytes 6) fun b => readThen (readNum 2) fun d => readPure ⟨b, d⟩) tag p)
  | 0x04 => .dayStatus (reqOf noFields tag p)
  | 0x05 => .journalRead (reqOf (readThen (readNum 4) fun q => one (JournalReadFields.mk q)) tag p)
  | 0x10 => .takeTill (reqOf stationTill tag p)
  | 0x11 => .releaseTill (reqOf stationTill tag p)
  | 0x12 => .post (reqOf (readThen (readNum 1) fun s => readThen (readNum 1) fun k => readThen (readNum 1) fun t =>
      readThen readPairs fun b => readThen (readOpt 17 (readText 16)) fun a => readPure ⟨s, k, t, b, a⟩) tag p)
  | 0x13 => .void (reqOf (readThen (readNum 1) fun s => readThen (readNum 4) fun q => readPure ⟨s, q⟩) tag p)
  | 0x14 => .countBegin (reqOf stationTill tag p)
  | 0x15 => .countDeclare (reqOf (readThen (readNum 1) fun s => readThen (readNum 1) fun t =>
      readThen readPairs fun x => readPure ⟨s, t, x⟩) tag p)
  | 0x16 => .countAbandon (reqOf stationTill tag p)
  | 0x17 => .transferOffer (reqOf (readThen (readNum 1) fun s => readThen (readNum 1) fun t =>
      readThen readPairs fun x => readPure ⟨s, t, x⟩) tag p)
  | 0x18 => .transferAccept (reqOf stationTransfer tag p)
  | 0x19 => .transferReject (reqOf stationTransfer tag p)
  | 0x1A => .tillStatus (reqOf tillOnly tag p)
  | 0x20 => .limitSet (reqOf (readThen (readNum 1) fun t => readThen (readNum 8) fun l => readThen (readNum 8) fun u =>
      readThen (readNum 1) fun f => readThen readFlag fun e => readPure ⟨t, l, u, f, e⟩) tag p)
  | 0x21 => .limitClear (reqOf tillOnly tag p)
  | 0x22 => .limitArm (reqOf tillOnly tag p)
  | 0x28 => .signOn (reqOf (readThen (readNum 1) fun s => readThen (readText 8) fun o => one (SignOnFields.mk s o)) tag p)
  | 0x29 => .signOff (reqOf stationOnly tag p)
  | 0x2A => .stationSetup (reqOf (readThen (readNum 1) fun s => readThen (readNum 1) fun r => readThen (readNum 1) fun c =>
      two (StationSetupFields.mk s r c)) tag p)
  | 0x2B => .stationStatus (reqOf stationOnly tag p)
  | 0x30 => .display (reqOf (readThen (readNum 1) fun s => readThen (readNum 1) fun r => readThen (readNum 1) fun c =>
      readThen (readNum 1) fun a => readThen (readText 80) fun t => readPure ⟨s, r, c, a, t⟩) tag p)
  | 0x31 => .readInput (reqOf (two .mk) tag p)
  | 0x32 => .lineTestStart (reqOf stationOnly tag p)
  | 0x33 => .lineTestStop (reqOf stationOnly tag p)
  | 0x34 => .scanSet (reqOf (two .mk) tag p)
  | 0x35 => .scanStatus (reqOf noFields tag p)
  | 0x40 => .assignPrinter (reqOf (two .mk) tag p)
  | 0x41 => .printerHold (reqOf printerOnly tag p)
  | 0x42 => .printerFree (reqOf printerOnly tag p)
  | 0x43 => .printerReset (reqOf printerOnly tag p)
  | 0x44 => .printerStatus (reqOf noFields tag p)
  | 0x48 => .printSubmit (reqOf (readThen (readNum 1) fun s => readThen (readText 12) fun b =>
      readThen (readList submitLine) fun l => readPure ⟨s, b, l⟩) tag p)
  | 0x49 => .printCancel (reqOf jobOnly tag p)
  | 0x4A => .jobStatus (reqOf jobOnly tag p)
  | 0x50 => .cutArm (reqOf (readThen (readNum 1) fun m => readThen (readOpt 4 (readNum 4)) fun t =>
      readThen readFlag fun f => readPure ⟨m, t, f⟩) tag p)
  | 0x51 => .cutDisarm (reqOf noFields tag p)
  | 0x52 => .cutStatus (reqOf noFields tag p)
  | 0x58 => .sendConfig (reqOf (readThen readFlag fun a => one (SendConfigFields.mk a)) tag p)
  | 0x59 => .sendStart (reqOf noFields tag p)
  | 0x5A => .sendResume (reqOf noFields tag p)
  | 0x5B => .sendRestart (reqOf noFields tag p)
  | 0x5C => .sendStatus (reqOf noFields tag p)
  | 0x60 => .readNotices (reqOf (one .mk) tag p)
  | 0x61 => .timeSet (reqOf (readThen (readNum 4) fun t => readThen (readNum 2) fun d => readPure ⟨t, d⟩) tag p)
  | 0x62 => .identify (reqOf noFields tag p)
  | 0x63 => .restart (reqOf noFields tag p)
  | _ => .unknownRequest type tag

/-! ### The host line, character by character (R188) -/

/-- What the bytes after the sync byte come to. -/
inductive Gathered where
  | more
  | badLength
  | whole
deriving DecidableEq, Repr

/-- The length byte pair is out of range, the frame is complete, or more characters are to come (R188). -/
def gatheredOf (got : Text) : Gathered :=
  if got.length < 2 then .more
  else
    let n := bytesNum (got.take 2)
    if n < 2 ∨ 514 < n then .badLength
    else if got.length < n + 4 then .more
    else .whole

/-- The command of a complete frame: the bytes after the sync byte, check included (R189). -/
def frameCommand (got : Text) : Instr :=
  let body := got.take (got.length - 2)
  if checked body = got then
    requestOf (bytesNum ((body.drop 2).take 1)) (bytesNum ((body.drop 3).take 1)) (body.drop 4)
  else .hostFrameError

/-- One character on the host line: HLC's receiver after it, and the command it brings at once (R188). -/
def State.gather (s : State) (b : Byte) : State × List Instr :=
  match s.hlc.receive with
  | .hunting =>
    if b = 0xA5 then
      ({ s with hlc := { s.hlc with receive := if s.hlc.buffer.isSome then .discarding [] else .gathering [] } }, [])
    else (s, [])
  | .gathering got =>
    match gatheredOf (got ++ [b]) with
    | .more => ({ s with hlc := { s.hlc with receive := .gathering (got ++ [b]) } }, [])
    | .badLength => ({ s with hlc := { s.hlc with receive := .hunting } }, [.hostFrameError])
    | .whole => ({ s with hlc := { s.hlc with receive := .hunting, buffer := some (got ++ [b]) } }, [])
  | .discarding got =>
    match gatheredOf (got ++ [b]) with
    | .more => ({ s with hlc := { s.hlc with receive := .discarding (got ++ [b]) } }, [])
    | _ => ({ s with hlc := { s.hlc with receive := .hunting } }, [.hostFrameOverrun])

/-- One character on the host line of the part as it stands: one that is off or held in RESET discards it (R197). -/
def State.hear (s : State) (b : Byte) : State × List Instr := if s.live then s.gather b else (s, [])

/-- The frame in the buffer is handed over, which frees the buffer (R188, R190). -/
def State.handOver (s : State) : State × List Instr :=
  match s.hlc.buffer with
  | some got => ({ s with hlc := { s.hlc with buffer := none } }, [frameCommand got])
  | none => (s, [])

/-! ### The other links (R203). Each function takes the bytes after the start byte. -/

/-- Header and body of a frame whose check matches; none where it does not. -/
def uncheck (got : Text) : Option Text :=
  let body := got.take (got.length - 2)
  if checked body = got then some body else none

/-- The content of a screen's reply by its flags (11 "Screen line"). A reply with both the entry and the echo flag is an
echo: off a TEST frame it carries neither, as the chapter says, and on one it is taken as the echo, DESIGN CHOICE (log 16). -/
def replyContent (flags : Byte) (body : Text) : Option ReplyContent :=
  match flags.getLsbD 1, flags.getLsbD 3 with
  | false, false => if body = [] then some .nothing else none
  | true, false =>
    match body with
    | k :: n :: t => if t.length = n.toNat ∧ n.toNat ≤ 64 then some (.entry k.toNat (flags.getLsbD 2) t) else none
    | _ => none
  | _, true => some (.echo body)

/-- A reply on the screen line. One with a good check whose body length is above 82 is judged by its flags as any other:
DESIGN CHOICE (log 16). -/
def screenCommand (got : Text) : Instr :=
  match uncheck got with
  | some (a :: f :: n :: body) =>
    if body.length = n.toNat then
      match replyContent f body with
      | some c => .screenReply { station := a.toNat, ack := f.getLsbD 0, content := c }
      | none => .linkFrameDiscarded .screenLine
    else .linkFrameDiscarded .screenLine
  | _ => .linkFrameDiscarded .screenLine

/-- A message of a printer (11 "Printer ports"). One with a good check whose body length is above 42, and one of the types
0x01 to 0x06 by which the part speaks to a printer, are judged by the type: a type that is none of a printer's messages
is unlisted, whatever its body. DESIGN CHOICE (log 16). -/
def printerCommand (p : Printer) (got : Text) : Instr :=
  match uncheck got with
  | some (t :: n :: body) =>
    if body.length ≠ n.toNat then .linkFrameDiscarded (.printer p)
    else
      match t.toNat, body with
      | 0x81, [] => .ready p
      | 0x82, _ =>
        if body.length = 14 then .bookIn p (body.take 12) (bytesNum ((body.drop 12).take 1)) (bytesNum (body.drop 13))
        else .linkFrameDiscarded (.printer p)
      | 0x83, [] => .lineDone p
      | 0x84, [] => .pageFull p
      | 0x85, [] => .bookOut p
      | 0x86, [c] => .fault p c.toNat
      | 0x87, [] => .probeReply p
      | k, _ => if 0x81 ≤ k ∧ k ≤ 0x87 then .linkFrameDiscarded (.printer p) else .unlistedPrinterMessage p
  | _ => .linkFrameDiscarded (.printer p)

/-- A message of the line unit (11 "Head-office link"). One with a good check whose body length is above 850 is judged by
its type: DESIGN CHOICE (log 16). -/
def lineCommand (got : Text) : Instr :=
  match uncheck got with
  | some (t :: h :: l :: body) =>
    if body.length ≠ bytesNum [h, l] then .linkFrameDiscarded .headOffice
    else
      match t.toNat, body with
      | 0x81, [a, b] => .ack (bytesNum [a, b])
      | 0x82, [a, b] => .nak (bytesNum [a, b])
      | 0x83, [] => .hold
      | 0x84, [] => .go
      | 0x85, [c] => .reject c.toNat
      | 0x86, chars => .echo chars
      | _, _ => .linkFrameDiscarded .headOffice
  | _ => .linkFrameDiscarded .headOffice

/-! ### The other links, byte by byte (R203) -/

/-- The start byte of what a link brings. -/
def startByte : LinkPort → Byte
  | .screenLine => 0x5B
  | .printer _ => 0x3C
  | .headOffice => 0x96

/-- The header of what a link brings, less its start byte: its size, and the body length it gives. -/
def headerSize : LinkPort → Nat
  | .screenLine => 3
  | .printer _ => 2
  | .headOffice => 3

def bodyLength (port : LinkPort) (got : Text) : Nat :=
  match port with
  | .screenLine => bytesNum ((got.drop 2).take 1)
  | .printer _ => bytesNum ((got.drop 1).take 1)
  | .headOffice => bytesNum ((got.drop 1).take 2)

/-- The header, the body it announces and the check have come. -/
def frameWhole (port : LinkPort) (got : Text) : Bool :=
  headerSize port ≤ got.length && headerSize port + bodyLength port got + 2 ≤ got.length

/-- The command of a link's whole frame. -/
def linkCommand (port : LinkPort) (got : Text) : Instr :=
  match port with
  | .screenLine => screenCommand got
  | .printer p => printerCommand p got
  | .headOffice => lineCommand got

/-- One byte on a link: the receiver after it, and the command it brings. The receiver hunts for the start byte, gathers
as many bytes as the header announces, and hunts again (R203); a part that is off or held in RESET discards the byte (R197). -/
def State.hearLink (s : State) (port : LinkPort) (b : Byte) : State × List Instr :=
  if s.live then
    match s.receiver port with
    | .hunting => (if b = startByte port then s.setReceiver port (.gathering []) else s, [])
    | .gathering got =>
      if frameWhole port (got ++ [b]) then (s.setReceiver port .hunting, [linkCommand port (got ++ [b])])
      else (s.setReceiver port (.gathering (got ++ [b])), [])
  else (s, [])

end Sys2Proof.Machine
end

