-- ==== Sys2Proof/Safety.lean ====
section
/-! DEFINITION. What the rules promise of every state and every request: the bounds and agreements of the records that each step keeps, and the
type and tag of a request. -/

namespace Sys2Proof

/-- The type code and the tag of a host request (11 "The host frame"). -/
def Instr.request? : Instr → Option (Nat × Nat)
  | .denomSet r => some (0x01, r.tag)
  | .openingSet r => some (0x02, r.tag)
  | .dayBegin r => some (0x03, r.tag)
  | .dayStatus r => some (0x04, r.tag)
  | .journalRead r => some (0x05, r.tag)
  | .takeTill r => some (0x10, r.tag)
  | .releaseTill r => some (0x11, r.tag)
  | .post r => some (0x12, r.tag)
  | .void r => some (0x13, r.tag)
  | .countBegin r => some (0x14, r.tag)
  | .countDeclare r => some (0x15, r.tag)
  | .countAbandon r => some (0x16, r.tag)
  | .transferOffer r => some (0x17, r.tag)
  | .transferAccept r => some (0x18, r.tag)
  | .transferReject r => some (0x19, r.tag)
  | .tillStatus r => some (0x1A, r.tag)
  | .limitSet r => some (0x20, r.tag)
  | .limitClear r => some (0x21, r.tag)
  | .limitArm r => some (0x22, r.tag)
  | .signOn r => some (0x28, r.tag)
  | .signOff r => some (0x29, r.tag)
  | .stationSetup r => some (0x2A, r.tag)
  | .stationStatus r => some (0x2B, r.tag)
  | .display r => some (0x30, r.tag)
  | .readInput r => some (0x31, r.tag)
  | .lineTestStart r => some (0x32, r.tag)
  | .lineTestStop r => some (0x33, r.tag)
  | .scanSet r => some (0x34, r.tag)
  | .scanStatus r => some (0x35, r.tag)
  | .assignPrinter r => some (0x40, r.tag)
  | .printerHold r => some (0x41, r.tag)
  | .printerFree r => some (0x42, r.tag)
  | .printerReset r => some (0x43, r.tag)
  | .printerStatus r => some (0x44, r.tag)
  | .printSubmit r => some (0x48, r.tag)
  | .printCancel r => some (0x49, r.tag)
  | .jobStatus r => some (0x4A, r.tag)
  | .cutArm r => some (0x50, r.tag)
  | .cutDisarm r => some (0x51, r.tag)
  | .cutStatus r => some (0x52, r.tag)
  | .sendConfig r => some (0x58, r.tag)
  | .sendStart r => some (0x59, r.tag)
  | .sendResume r => some (0x5A, r.tag)
  | .sendRestart r => some (0x5B, r.tag)
  | .sendStatus r => some (0x5C, r.tag)
  | .readNotices r => some (0x60, r.tag)
  | .timeSet r => some (0x61, r.tag)
  | .identify r => some (0x62, r.tag)
  | .restart r => some (0x63, r.tag)
  | _ => none

/-- The payload of a host request fits the layout of its type (R190). -/
def Instr.fits : Instr → Bool
  | .denomSet r => r.fields.isSome
  | .openingSet r => r.fields.isSome
  | .dayBegin r => r.fields.isSome
  | .dayStatus r => r.fields.isSome
  | .journalRead r => r.fields.isSome
  | .takeTill r => r.fields.isSome
  | .releaseTill r => r.fields.isSome
  | .post r => r.fields.isSome
  | .void r => r.fields.isSome
  | .countBegin r => r.fields.isSome
  | .countDeclare r => r.fields.isSome
  | .countAbandon r => r.fields.isSome
  | .transferOffer r => r.fields.isSome
  | .transferAccept r => r.fields.isSome
  | .transferReject r => r.fields.isSome
  | .tillStatus r => r.fields.isSome
  | .limitSet r => r.fields.isSome
  | .limitClear r => r.fields.isSome
  | .limitArm r => r.fields.isSome
  | .signOn r => r.fields.isSome
  | .signOff r => r.fields.isSome
  | .stationSetup r => r.fields.isSome
  | .stationStatus r => r.fields.isSome
  | .display r => r.fields.isSome
  | .readInput r => r.fields.isSome
  | .lineTestStart r => r.fields.isSome
  | .lineTestStop r => r.fields.isSome
  | .scanSet r => r.fields.isSome
  | .scanStatus r => r.fields.isSome
  | .assignPrinter r => r.fields.isSome
  | .printerHold r => r.fields.isSome
  | .printerFree r => r.fields.isSome
  | .printerReset r => r.fields.isSome
  | .printerStatus r => r.fields.isSome
  | .printSubmit r => r.fields.isSome
  | .printCancel r => r.fields.isSome
  | .jobStatus r => r.fields.isSome
  | .cutArm r => r.fields.isSome
  | .cutDisarm r => r.fields.isSome
  | .cutStatus r => r.fields.isSome
  | .sendConfig r => r.fields.isSome
  | .sendStart r => r.fields.isSome
  | .sendResume r => r.fields.isSome
  | .sendRestart r => r.fields.isSome
  | .sendStatus r => r.fields.isSome
  | .readNotices r => r.fields.isSome
  | .timeSet r => r.fields.isSome
  | .identify r => r.fields.isSome
  | .restart r => r.fields.isSome
  | _ => true

/-- The rows of the run-out of one timer, and of the second that meets the trigger time of the cut. -/
def Instr.isRunOut : Instr → Bool
  | .transferExpiry _ => true
  | .transferReturnRetry _ => true
  | .graceExpiry _ => true
  | .jobWaitTimeout _ => true
  | .probeTimerRunout _ => true
  | .offlineClearInterval _ => true
  | .ackTimeout => true
  | .echoTimeout => true
  | .holdTimeout => true
  | .cutTrigger => true
  | _ => false

/-- The rows of power, RESET, the carrier and the tick, which act on a part that is off or held in RESET. -/
def Instr.reachesStopped : Instr → Bool
  | .powerOn .. => true
  | .lossOfMainPower => true
  | .resetAssert => true
  | .resetRelease _ => true
  | .clockTick => true
  | .carrierArrival => true
  | .carrierLoss => true
  | _ => false

end Sys2Proof

namespace Sys2Proof.Machine

open Sys2Proof

/-- The notice queue holds at most 32 notices (R191). -/
def NoticesBounded (s : State) : Prop := s.hlc.notices.length ≤ 32

/-- The journal holds at most 4096 entries, whose numbers form one unbroken run that ends below the next sequence number;
numbers start at 1 and end at 4294967295 (R8, R13). -/
def JournalRuns (s : State) : Prop :=
  s.dju.journal.length ≤ 4096 ∧ s.dju.journal.length < s.dju.nextSeq ∧ s.dju.nextSeq ≤ 4294967296 ∧
    ∀ (i : Nat) (h : i < s.dju.journal.length), s.dju.journal[i].seq + (s.dju.journal.length - i) = s.dju.nextSeq

/-- No till holds a count above 65535 (R26). -/
def CountsInRange (s : State) : Prop := ∀ (t : Till) (d : Denom), (s.till t).counts[d] ≤ 65535

/-- The clock holds a time of day and a date, and stands at 0 while it is invalid (R193). -/
def ClockLegal (s : State) : Prop :=
  s.hlc.clock.time ≤ 86399 ∧ s.hlc.clock.date ≤ 65535 ∧
    (s.hlc.clock.valid = false → s.hlc.clock.time = 0 ∧ s.hlc.clock.date = 0)

/-- A till has a holder exactly in OPEN, COUNTING and BALANCED, and a till's holder and a station's held till name each
other (R26, R63). -/
def HoldsAgree (s : State) : Prop :=
  (∀ t : Till, (s.till t).holder.isSome = true ↔
      (s.till t).state = .opened ∨ (s.till t).state = .counting ∨ (s.till t).state = .balanced) ∧
    ∀ (t : Till) (st : Station), (s.till t).holder = some st ↔ s.held st = some t

/-- The transfer table holds at most 8 records, the job table 24, an output queue 8 updates and an input queue 16
entries (R40, R91, R94, R124). -/
def TablesBounded (s : State) : Prop :=
  s.tlu.transfers.length ≤ 8 ∧ s.pjq.jobs.length ≤ 24 ∧
    ∀ st : Station, (s.line st).output.length ≤ 8 ∧ (s.line st).input.length ≤ 16

/-- Every timer stands within its range (R40, R66, R105, R124, R166, R175). -/
def TimersInRange (s : State) : Prop :=
  (∀ x ∈ s.tlu.transfers, x.remaining ≤ 300) ∧ (∀ (st : Station) (o : SignOn) (g : Nat), s.presence st = .lost o g → g ≤ 600) ∧
    (∀ j ∈ s.pjq.jobs, ∀ w : Nat, j.wait = some w → w ≤ 180) ∧ (∀ p : Printer, (s.printer p).timer ≤ 5) ∧
    (∀ n : Nat, s.hos.ackTimer = some n → n ≤ 20) ∧ (∀ n : Nat, s.hos.holdTimer = some n → n ≤ 600) ∧
    ∀ n : Nat, s.hos.test.echoTimer = some n → n ≤ 2

/-- The send record is IDLE exactly while no batch is outstanding, and its batch day is the cut record's day (R166). -/
def SendFollowsCut (s : State) : Prop :=
  (s.hos.state = .idle ↔ s.hos.batch = none) ∧ s.hos.batch.map (·.day) = s.dju.cutRecord.map (·.day)

/-- No timer that runs stands at 0: a transfer's does exactly while its return waits (R44, R72, R112, R113, R139, R175). -/
def TimersRun (s : State) : Prop :=
  (∀ x ∈ s.tlu.transfers, x.waiting = decide (x.remaining = 0)) ∧
    (∀ (st : Station) (o : SignOn) (g : Nat), s.presence st = .lost o g → 1 ≤ g) ∧
    (∀ j ∈ s.pjq.jobs, ∀ w : Nat, j.wait = some w → 1 ≤ w) ∧
    (∀ p : Printer, (s.printer p).device ≠ .fault → 1 ≤ (s.printer p).timer) ∧
    (∀ n : Nat, s.hos.ackTimer = some n → 1 ≤ n) ∧ (∀ n : Nat, s.hos.holdTimer = some n → 1 ≤ n) ∧
    ∀ n : Nat, s.hos.test.echoTimer = some n → 1 ≤ n

/-- The oldest unacknowledged block is a block of the batch. While main power is present, the window is empty outside SENDING
and HELD, and there it holds at most four blocks that follow one another from the oldest unacknowledged one; in SENDING all
that may be handed have been. The ack timer runs exactly in SENDING, the hold timer in HELD and the echo timer in TESTING
(R166, R175, R177, R181). -/
def SendRuns (s : State) : Prop :=
  (∀ b : Batch, s.hos.batch = some b → 1 ≤ b.oldest ∧ b.oldest ≤ b.blocks) ∧
    (s.pins.powered = true →
      (s.hos.ackTimer.isSome = true ↔ s.hos.state = .sending) ∧ (s.hos.holdTimer.isSome = true ↔ s.hos.state = .held) ∧
      (s.hos.test.echoTimer.isSome = true ↔ s.hos.state = .testing) ∧
      (s.hos.state ≠ .sending → s.hos.state ≠ .held → s.hos.window = []) ∧
      (s.hos.state ≠ .sending → s.hos.state ≠ .held → s.hos.state ≠ .testing → s.hos.next = none) ∧
      (s.hos.state = .testing → ∃ b : Batch, s.hos.batch = some b ∧ s.hos.next = some b.oldest) ∧
      ((s.hos.state = .sending ∨ s.hos.state = .held) → ∃ (b : Batch) (n : Nat), s.hos.batch = some b ∧ s.hos.next = some n ∧
        s.hos.window.length ≤ 4 ∧ s.hos.window.map (·.1) = List.range' b.oldest s.hos.window.length ∧
        b.oldest + s.hos.window.length ≤ b.blocks + 1 ∧ b.oldest ≤ n ∧ n ≤ b.oldest + s.hos.window.length ∧
        (∀ w ∈ s.hos.window, w.2 ≤ 3) ∧
        (s.hos.state = .sending → n = b.oldest + s.hos.window.length ∧ n = min (b.blocks + 1) (b.oldest + 4))))

/-- The table's jobs have ids of their own and at most 24 stand in it, and a job has a printer exactly in STARTED, PRINTING
and PAGE_TURN. While main power is present, printers and jobs name each other, a bound printer's device state is its job's,
and a printer without a job is OFFLINE, IDLE or in FAULT (R105, R106, R119, R124, R126). -/
def BindingsAgree (s : State) : Prop :=
  s.pjq.jobs.length ≤ 24 ∧ (s.pjq.jobs.map (·.id)).Nodup ∧
    (∀ j ∈ s.pjq.jobs, j.printer.isSome = true ↔ j.state = .started ∨ j.state = .printing ∨ j.state = .pageTurn) ∧
    (s.pins.powered = true →
      (∀ p : Printer, ∀ id ∈ (s.printer p).bound, ∃ j ∈ s.pjq.jobs, j.id = id ∧ j.printer = some p) ∧
      (∀ j ∈ s.pjq.jobs, ∀ p : Printer, j.printer = some p → (s.printer p).bound = some j.id ∧
        (s.printer p).device = match j.state with | .started => .waitingBook | .printing => .printing | _ => .pageTurn) ∧
      ∀ p : Printer, (s.printer p).bound = none →
        (s.printer p).device = .offline ∨ (s.printer p).device = .idle ∨ (s.printer p).device = .fault)

/-- The journal holds entries of at most two days: with the cut record absent all are of the current day; with it present
those of its day stand at the head, before those of the current day, another day. No arming stands beside a cut record, and
before the first day nothing stands that could bring an entry: no transfer, no job, no till OPEN or COUNTING (R16, R151). -/
def DaysInOrder (s : State) : Prop :=
  (s.cut.isSome = true → s.dju.cutRecord = none) ∧
    match s.dju.day, s.dju.cutRecord with
    | none, c => c = none ∧ s.dju.journal = [] ∧ s.cut = none ∧ s.tlu.transfers = [] ∧ s.pjq.jobs = [] ∧
        ∀ t : Till, (s.till t).state ≠ .opened ∧ (s.till t).state ≠ .counting
    | some d, none => ∀ e ∈ s.dju.journal, e.day = d.number
    | some d, some c => c.day ≠ d.number ∧ ∃ old new : List Entry, s.dju.journal = old ++ new ∧
        (∀ e ∈ old, e.day = c.day) ∧ ∀ e ∈ new, e.day = d.number

/-- What an entry brings into the branch of a denomination, or takes out of it, while it is LIVE (R28). -/
def flowOf (x : Denom) (e : Entry) : Int :=
  let count := ((e.breakdown.getD []).lookup x).getD 0
  match e.status, e.kind with
  | .live, .cashIn => count
  | .live, .delivery => count
  | .live, .adjust => count
  | .live, .cashOut => -count
  | .live, .cashReturn => -count
  | _, _ => 0

/-- For every denomination the tills' counts and the pending transfers together are the branch opening position and the flow
of the current day's entries; before the first day each till stands at its opening counts. A COUNTING till stands at its book
counts and no transfer names one, transfer ids are distinct, and a customer entry's breakdown holds no negative count
(R11, R26, R28, R36, R40). -/
def CashBalances (s : State) : Prop :=
  (∀ (t : Till) (c : CountRecord), (s.till t).state = .counting → (s.till t).count = some c → c.book = (s.till t).counts) ∧
    (∀ x ∈ s.tlu.transfers, (s.till x.source).state ≠ .counting ∧ (s.till x.destination).state ≠ .counting) ∧
    (s.tlu.transfers.map (·.id)).Nodup ∧
    (∀ e ∈ s.dju.journal, (e.kind = .cashIn ∨ e.kind = .cashOut) → ∀ p ∈ e.breakdown.getD [], 0 ≤ p.2) ∧
    match s.dju.day with
    | none => s.tlu.branchOpening = none ∧ ∀ t : Till, (s.till t).counts = (s.till t).opening
    | some d => ∃ opening : Counts, s.tlu.branchOpening = some opening ∧ ∀ x : Denom,
        Int.ofNat (((List.finRange 13).map fun t => (s.till t).counts[x]).sum +
          (s.tlu.transfers.map fun y => countOf y.breakdown x).sum) =
        Int.ofNat opening[x] + ((s.dju.journal.filter fun e => e.day = d.number).map (flowOf x)).sum

/-- Request `c`, of a type and tag, is refused: the reply holds the status alone and every record stands (R190, R202). -/
def Refuses (c : Instr) (type tag : Nat) (st : Status) (s : State) : Prop :=
  exec c s = .next { s with sent := [replyTo type tag st []] }

/-- Event `c` is discarded: nothing goes out and every record stands. -/
def Discards (c : Instr) (s : State) : Prop := exec c s = .next { s with sent := [] }

/-- HLC's records are as they stood but for the notices that joined the queue. -/
def KeepsLink (s u : State) : Prop := u.hlc = { s.hlc with notices := u.hlc.notices, overflow := u.hlc.overflow }

/-- SLC's records are as they stood but for indicators, status slots and the mark of a refilled slot in progress. -/
def KeepsLine (s u : State) : Prop :=
  u.slc = { s.slc with lines := u.slc.lines, slot := u.slc.slot } ∧
    (∀ x : Station, u.line x = { s.line x with indicators := (u.line x).indicators, slot := (u.line x).slot }) ∧
    u.slc.slot.map (fun sl => { sl with refilled := true }) = s.slc.slot.map (fun sl => { sl with refilled := true })

/-- HLC has raised one notice: it joins the queue, or, where 32 are held, is discarded with the overflow flag set (R191). -/
def RaisesNotice (r : Raised) (s u : State) : Prop :=
  (s.hlc.notices.length < 32 → u.hlc = { s.hlc with notices := s.hlc.notices ++ [r] }) ∧
    (32 ≤ s.hlc.notices.length → u.hlc = { s.hlc with overflow := true })

/-- TLU's records are as they stood but for till `t`. -/
def OnlyTill (t : Till) (s u : State) : Prop :=
  u.tlu = { s.tlu with tills := u.tlu.tills } ∧ ∀ x : Till, x ≠ t → u.till x = s.till x

/-- STU's records are as they stood but for station `st`'s presence. -/
def OnlyPresence (st : Station) (s u : State) : Prop :=
  (∀ x : Station, (u.station x).setup = (s.station x).setup) ∧ ∀ x : Station, x ≠ st → u.presence x = s.presence x

/-- The monitors are as they stood but for till `t`'s. -/
def OnlyMonitor (t : Till) (s u : State) : Prop := ∀ x : Till, x ≠ t → u.monitor x = s.monitor x

/-- The printers are as they stood but for printer `p`. -/
def OnlyPrinter (p : Printer) (s u : State) : Prop := ∀ x : Printer, x ≠ p → u.printer x = s.printer x

/-- An append raises JOURNAL_LOW exactly when it brings the free entries from 641 to 640 with the low mark clear, and the mark
is set from then on (R17). -/
def MarksLow (s u : State) : Prop :=
  u.dju.lowMark = (s.dju.lowMark || decide (s.free = 641)) ∧
    (s.free = 641 → s.dju.lowMark = false → s.hlc.notices.length < 32 → u.hlc.notices[s.hlc.notices.length]? =
      some ⟨s.now, .journalLow 640 s.dayNumber s.dju.cutRecord.isSome⟩) ∧
    ((s.free ≠ 641 ∨ s.dju.lowMark = true) → ∀ r ∈ u.hlc.notices.drop s.hlc.notices.length,
      ∀ (free day : Nat) (cut : Bool), r.notice ≠ .journalLow free day cut)

/-- The journal has grown by one entry, and JOURNAL_LOW and the low mark follow (R15, R17). -/
def JournalGrows (e : Entry) (s u : State) : Prop :=
  u.dju = { s.dju with journal := s.dju.journal ++ [e], nextSeq := s.dju.nextSeq + 1, lowMark := u.dju.lowMark } ∧ MarksLow s u

/-- HLC after an append in `s`: JOURNAL_LOW joins where it brings the free entries from 641 to 640 with the low mark clear
(R17). -/
def linkAppended (s : State) : Hlc :=
  if s.free = 641 ∧ s.dju.lowMark = false then (s.raise (.journalLow 640 s.dayNumber s.dju.cutRecord.isSome)).hlc else s.hlc

/-- The state in which LMU looks at a till that a command has brought from `s` to `u`: cash and journal as in `u`; monitors and
screens as in `s`, and its notices with JOURNAL_LOW (R32, R51). -/
def beforeLook (s u : State) : State := { u with sent := [], lmu := s.lmu, slc := s.slc, hlc := linkAppended s }

/-- LMU has looked in `v` at till `t`, whose counts entry `q` changed, and left `u`: its monitor, the holder's limit indicators
and LIMIT_TRIP follow (R51 to R54). -/
def LooksAt (t : Till) (q : Nat) (v u : State) : Prop := u = { v.evaluate t q with sent := u.sent }

/-- The id that follows the last one given, counting 255 to 1 and passing over the ids held (R40, R127). -/
def NextIdAfter (last : Nat) (held : List Nat) (id : Nat) : Prop :=
  ∃ k : Nat, id = (last + k) % 255 + 1 ∧ id ∉ held ∧ ∀ i : Nat, i < k → (last + i) % 255 + 1 ∈ held

/-- No arming awaits a gate that is met, so that no start can make the cut through it (R155, R165). -/
def GateShut (s : State) : Prop := ∀ a, s.cut = some a → a.state = .awaitGate → s.gateMet = false

/-- Command `c` makes a restart with `cause`, and the clock goes on as `clock`: RESET is released, the RESTART reply has left the
line, or power is back with the records intact (R193, R196, R197). -/
def RestartBy (c : Instr) (x : Straps) (cause : StartCause) (clock : Clock) (s : State) : Prop :=
  c = .resetRelease x ∧ cause = .resetLine ∧ s.pins.powered = true ∧ s.pins.resetHeld = true ∧ clock = s.hlc.clock ∨
    c = .restartBegin x ∧ cause = .request ∧ s.live = true ∧ s.hlc.restarting = true ∧ clock = s.hlc.clock ∨
    c = .powerOn true x ∧ cause = .powerOn ∧ s.pins.powered = false ∧ s.rcm.matching = true ∧
      clock = { time := 0, date := 0, valid := false }

/-- No arming awaits the gate, so that no event can make the cut through it (R155). -/
def NoGate (s : State) : Prop := ∀ a, s.cut = some a → a.state = .awaitTrigger

/-- A station lies in the scan range from `first` to `last` (R83). -/
abbrev InScan (first last x : Station) : Prop := if first ≤ last then first ≤ x ∧ x ≤ last else first ≤ x ∨ x ≤ last

/-- The stations of the range from `first` to `last`, in scan order (R83). -/
def ScanOrder (first last : Station) (range : List Station) : Prop :=
  (∀ x : Station, x ∈ range ↔ InScan first last x) ∧
    range.Pairwise fun a b => (a.val + 12 - first.val) % 12 < (b.val + 12 - first.val) % 12

/-- The round counted `round` gives its next slot to `st`: of the stations `walk` it has still to come to it passes over the
VACANT ones, but where it is counted 0, and `rest` come after `st` (R84). -/
def ServesNext (s : State) (round : Nat) (walk : List Station) (st : Station) (rest : List Station) : Prop :=
  ∃ passed : List Station, walk = passed ++ st :: rest ∧ (∀ x ∈ passed, s.presence x = .vacant ∧ round ≠ 0) ∧
    (s.presence st = .vacant → round = 0)

/-- The frame of station `st`'s slot, which leaves its line test at `test`: only a TEST frame moves the generator (R86, R98). -/
def FrameFor (s : State) (st : Station) (body : ScreenBody) (test : LineTest) : Prop :=
  (s.countedPresent st = true ∧ (s.line st).test.running = true → ∃ chars : Text, body = .test chars ∧ chars.length = 16 ∧
      (test.generator, chars) = patternChars 16 (s.line st).test.generator ∧
      test = { (s.line st).test with generator := test.generator }) ∧
    (¬ (s.countedPresent st = true ∧ (s.line st).test.running = true) → test = (s.line st).test) ∧
    (s.countedPresent st = true → (s.line st).test.running = false →
      (∀ set : StatusSet, (s.line st).slot = some set → body = .status set) ∧
      ((s.line st).slot = none → ∀ (x : Update) (later : List Update), (s.line st).output = x :: later → body = .update x) ∧
      ((s.line st).slot = none → (s.line st).output = [] → body = .poll)) ∧
    (s.countedPresent st = false → body = .poll)

/-- A slot has ended in `v`, and the next has begun: that of the station the round serves next, or, where the round serves none
any more, of the first that a later round serves, each round counted one further than the one before. The frame is out with the
station's input answer (R83 to R87). -/
def SlotBegins (v u : State) : Prop :=
  ∃ (st : Station) (body : ScreenBody) (test : LineTest), FrameFor v st body test ∧
    u.slc.slot = some { station := st, body := body, refilled := false, dropped := false, stale := false } ∧
    (u.slc.round = v.slc.round ∧ ServesNext v v.slc.round v.slc.walk st u.slc.walk ∨
      (∀ x ∈ v.slc.walk, v.presence x = .vacant ∧ v.slc.round ≠ 0) ∧
        ∃ (range : List Station) (k : Nat), ScanOrder v.slc.first v.slc.last range ∧
          (∀ i : Nat, i < k → ∀ x ∈ range, v.presence x = .vacant ∧ (v.slc.round + i + 1) % 8 ≠ 0) ∧
          u.slc.round = (v.slc.round + k + 1) % 8 ∧ ServesNext v u.slc.round range st u.slc.walk) ∧
    u.line st = { v.line st with test := test } ∧ (∀ x : Station, x ≠ st → u.line x = v.line x) ∧
    u = { v with
      sent := v.sent ++ [.screen st body (v.line st).answer]
      slc := { v.slc with lines := u.slc.lines, slot := u.slc.slot, walk := u.slc.walk, round := u.slc.round } }

/-- What a reply from station `st` carries has been taken in `w`: no entry sets the input answer to NONE, an entry of a kind other
than KEY and FIELD being none; an entry of a new bit joins the input queue where there is room, with INPUT_READY where the queue
was empty, and a repeat or a full queue changes the answer alone (R87, R93, R203). While a test runs no entry is stored, and the
answer stands (R97, log 17). -/
def TakesContent (c : ReplyContent) (st : Station) (w v : State) : Prop :=
  ((∀ (n : Nat) (bit : Bool) (text : Text), c = .entry n bit text → n ≠ 1 ∧ n ≠ 2) →
      v.line st = { w.line st with answer := .none } ∧ v.hlc = w.hlc) ∧
    (∀ (n : Nat) (k : InputKind) (bit : Bool) (text : Text), c = .entry n bit text → (n = 1 ∧ k = .key ∨ n = 2 ∧ k = .field) →
      ((w.line st).test.running = true → v = w) ∧
      ((w.line st).test.running = false →
        ((w.line st).lastBit = some bit → v.line st = { w.line st with answer := .taken bit } ∧ v.hlc = w.hlc) ∧
        ((w.line st).lastBit ≠ some bit → (w.line st).input.length < 16 →
          v.line st = { w.line st with
            input := (w.line st).input ++ [⟨k, text, w.now⟩], answer := .taken bit, lastBit := some bit } ∧
          ((w.line st).input ≠ [] → v.hlc = w.hlc) ∧ ((w.line st).input = [] → RaisesNotice ⟨w.now, .inputReady st⟩ w v)) ∧
        ((w.line st).lastBit ≠ some bit → 16 ≤ (w.line st).input.length →
          v.line st = { w.line st with answer := .notTaken bit } ∧ v.hlc = w.hlc))) ∧
    (∀ x : Station, x ≠ st → v.line x = w.line x) ∧
    v = { w with slc := { w.slc with lines := v.slc.lines }, hlc := v.hlc }

/-- The clock one second later (R193). -/
def NextSecond (c d : Clock) : Prop :=
  (c.valid = false → d = c) ∧ (c.valid = true → c.time < 86399 → d = { c with time := c.time + 1 }) ∧
    (c.valid = true → 86399 ≤ c.time → d = { time := 0, date := if c.date < 65535 then c.date + 1 else 0, valid := true })

/-- A timer one second lower, but for one whose last second this is. -/
def sooner (n : Nat) : Nat := if n ≤ 1 then n else n - 1

/-- The part as a tick that brings the clock to `next` leaves it for run-out `c`: the clock, the tick number and every timer are
moved on, but those with one second left, which are the run-out's to take; CUT_TRIGGER moves the clock itself (R193, log 3). -/
def elapsed (next : Clock) (c : Instr) (s : State) : State :=
  { s with
    ticks := s.ticks + 1
    hlc := { s.hlc with clock := if c = .cutTrigger then s.hlc.clock else next }
    tlu := { s.tlu with transfers := s.tlu.transfers.map fun x => { x with remaining := sooner x.remaining } }
    stu := s.stu.map fun r =>
      { r with presence := match r.presence with | .lost o g => .lost o (sooner g) | p => p }
    pjq := { s.pjq with jobs := s.pjq.jobs.map fun j => { j with wait := j.wait.map sooner } }
    prc := s.prc.map fun r => if r.device = .fault then r else { r with timer := sooner r.timer }
    hos := { s.hos with
      ackTimer := s.hos.ackTimer.map sooner, holdTimer := s.hos.holdTimer.map sooner
      test := { s.hos.test with echoTimer := s.hos.test.echoTimer.map sooner } } }

/-- The run-outs that fall due at a tick that brings the clock to `next`, each by its row of the table (R44, R72, R112, R113, R139,
R154, R175, R180, R181). -/
def dueRows (next : Clock) (s : State) : List Instr :=
  (s.tlu.transfers.filterMap fun x =>
    if x.waiting then some (.transferReturnRetry x.id) else if x.remaining = 1 then some (.transferExpiry x.id) else none) ++
  ((List.finRange 12).filterMap fun st => match s.presence st with | .lost _ 1 => some (.graceExpiry st) | _ => none) ++
  (s.pjq.jobs.filterMap fun j => if j.wait = some 1 then some (.jobWaitTimeout j.id) else none) ++
  ((List.finRange 4).filterMap fun p =>
    if (s.printer p).timer ≠ 1 ∨ (s.printer p).device = .fault then none
    else if (s.printer p).device = .offline then some (.offlineClearInterval p) else some (.probeTimerRunout p)) ++
  (if s.hos.ackTimer = some 1 then [.ackTimeout] else []) ++
  (if s.hos.test.echoTimer = some 1 then [.echoTimeout] else []) ++
  (if s.hos.holdTimer = some 1 then [.holdTimeout] else []) ++
  match s.cut with
  | some a => if a.state = .awaitTrigger ∧ next.valid = true ∧ a.trigger = some next.time then [.cutTrigger] else []
  | none => []

/-- After a pick pass no printer is ready to pick while a job it may serve is QUEUED (R118). -/
def NothingToPick (s : State) : Prop :=
  ∀ (p : Printer) (j : Job), (s.printer p).device = .idle → (s.printer p).hold = false → (s.printer p).bound = none →
    j ∈ s.pjq.jobs → j.state = .queued → s.mayServe p j = false

/-- The postings of the journal may have changed their passbook states; the entries and their numbers stand (R12). -/
def OnlyPassbooks (s u : State) : Prop :=
  u.dju = { s.dju with journal := u.dju.journal } ∧
    u.dju.journal.map (fun e => { e with passbook := .none }) = s.dju.journal.map fun e => { e with passbook := .none }

/-- The postings that the lines `ls`, still to be printed, name go from PENDING back to NONE where they are held, and no other
entry changes (R140). -/
def FreesPostings (ls : List JobLine) (s u : State) : Prop :=
  OnlyPassbooks s u ∧
    (∀ (l : JobLine) (q : LinePosting) (e : Entry), l ∈ ls → (l.state = .waiting ∨ l.state = .sent) → l.posting = some q →
      s.entry? q.seq = some e → u.entry? q.seq = some { e with passbook := if e.passbook = .pending then .none else e.passbook }) ∧
    ∀ n : Nat, (∀ l ∈ ls, (l.state = .waiting ∨ l.state = .sent) → ∀ q, l.posting = some q → q.seq ≠ n) →
      u.entry? n = s.entry? n

/-- The messages by which a book is given back: WRITE_STRIPE with its next free line, where there is one, and EJECT (R138). -/
def bookOut : Option Place → List PrinterMessage
  | some ⟨page, some line⟩ => [.writeStripe page line, .eject]
  | some ⟨page, none⟩ => if page < 32 then [.writeStripe (page + 1) 1, .eject] else [.eject]
  | none => [.eject]

/-- The job table with job `k` in the place of the job of its id. -/
def jobsWith (k : Job) (s : State) : List Job := s.pjq.jobs.map fun j => if j.id = k.id then k else j

/-- INSERT_BOOK and TURN_PAGE of a signed-on station follow its jobs (R126). -/
def ShowsJobs (st : Station) (u : State) : Prop :=
  (u.signOn? st).isSome = true →
    hasBit (u.line st).indicators .insertBook = (u.pjq.jobs.any fun j => decide (j.station = st ∧ j.state = .started)) ∧
    hasBit (u.line st).indicators .turnPage = u.pjq.jobs.any fun j => decide (j.station = st ∧ j.state = .pageTurn)

/-- The indicators stand, but for those of station `st` that are listed. -/
def OnlyIndicators (st : Station) (listed : List Indicator) (s u : State) : Prop :=
  (∀ x : Station, x ≠ st → u.line x = s.line x) ∧
    ∀ i : Indicator, i ∉ listed → hasBit (u.line st).indicators i = hasBit (s.line st).indicators i

/-- TILL_OPEN and TILL_COUNTING of a signed-on station follow the till it holds, LIMIT_HIGH and LIMIT_LOW that till's trip, and
OFFER_WAITING the pending transfers that name it as destination (R27, R54). -/
def ShowsHold (st : Station) (u : State) : Prop :=
  ∀ o : SignOn, u.signOn? st = some o →
    hasBit (u.line st).indicators .tillOpen = o.held.any (fun t => decide ((u.till t).state = .opened)) ∧
    hasBit (u.line st).indicators .tillCounting = o.held.any (fun t => decide ((u.till t).state = .counting)) ∧
    hasBit (u.line st).indicators .limitHigh = o.held.any (fun t => decide ((u.monitor t).state = .tripped .high)) ∧
    hasBit (u.line st).indicators .limitLow = o.held.any (fun t => decide ((u.monitor t).state = .tripped .low)) ∧
    hasBit (u.line st).indicators .offerWaiting =
      o.held.any fun t => u.tlu.transfers.any fun x => decide (x.destination = t)

/-- Station `x` is SIGNED_ON in `u`, and its indicators are others than they were in `s`. -/
def Repainted (x : Station) (s u : State) : Prop :=
  (∃ o : SignOn, u.presence x = .signedOn o) ∧ (u.line x).indicators ≠ (s.line x).indicators

/-- A change of an indicator of a SIGNED_ON station has filled its status slot with its full status set, and a STATUS frame that
is out to it knows that its slot was filled again; every other status slot stands, a LOST station's among them (R95, R96). -/
def SlotsFollow (s u : State) : Prop :=
  (∀ x : Station, (Repainted x s u →
      (u.line x).slot = some { indicators := (u.line x).indicators, setup := (u.station x).setup }) ∧
    (¬ Repainted x s u → (u.line x).slot = (s.line x).slot)) ∧
    ∀ sl : Slot, s.slc.slot = some sl → (Repainted sl.station s u → u.slc.slot = some { sl with refilled := true }) ∧
      (¬ Repainted sl.station s u → u.slc.slot = some sl)

/-- The status slot of station `st` has been filled: a STATUS frame that is out to it knows so, and another slot in progress
stands (R96). -/
def MarksFrame (st : Station) (s u : State) : Prop :=
  u.slc.slot = s.slc.slot.map fun sl => if sl.station = st then { sl with refilled := true } else sl

/-- The indicators of station `st`'s hold have been set afresh, and its status slot follows. -/
def HoldShown (st : Station) (s u : State) : Prop :=
  ShowsHold st u ∧ OnlyIndicators st [.tillOpen, .tillCounting, .limitHigh, .limitLow, .offerWaiting] s u ∧ SlotsFollow s u

/-- The indicators of station `st`'s jobs have been set afresh, and its status slot follows. -/
def JobsShown (st : Station) (s u : State) : Prop :=
  ShowsJobs st u ∧ OnlyIndicators st [.insertBook, .turnPage] s u ∧ SlotsFollow s u

/-- Printer `p`'s turn in a pick pass: ready, it takes the oldest QUEUED job that it may serve, which is STARTED at it with its
book asked for; else nothing changes (R107, R118, R119, R126, R130). -/
def PickTurn (p : Printer) (s u : State) : Prop :=
  ((s.readyToPick p = false ∨ ∀ j ∈ s.pjq.jobs, j.state = .queued → s.mayServe p j = false) → u = s) ∧
    ∀ (older newer : List Job) (j : Job), s.readyToPick p = true → s.pjq.jobs = older ++ j :: newer → j.state = .queued →
      s.mayServe p j = true → (∀ k ∈ older, k.state = .queued → s.mayServe p k = false) →
      u.printer p = { s.printer p with bound := some j.id, wrongBooks := 0, device := .waitingBook } ∧ OnlyPrinter p s u ∧
      JobsShown j.station s u ∧ KeepsLine s u ∧
      u = { s with
        sent := s.sent ++ [.printer p (.showInsert j.book)], prc := u.prc, slc := u.slc
        pjq := { s.pjq with jobs := jobsWith { j with state := .started, printer := some p, wait := some 180 } s } }

/-- A pick pass, the printers in ascending number (R118). -/
def PickPassed (s u : State) : Prop :=
  ∃ a b c : State, PickTurn 0 s a ∧ PickTurn 1 a b ∧ PickTurn 2 b c ∧ PickTurn 3 c u

/-- Job `k` has ended in `v`, less what its printer does: its record and its notice, its postings freed, and its station's
indicators (R126, R140). -/
def JobCloses (k : Job) (st : JobState) (why : Reason) (v u : State) : Prop :=
  FreesPostings k.lines v u ∧ JobsShown k.station v u ∧ KeepsLine v u ∧
    RaisesNotice ⟨v.now, .jobEnded k.id k.station st why k.printed k.printer k.place⟩ v u ∧
    u = { v with
      dju := u.dju, prc := u.prc, slc := u.slc, hlc := u.hlc
      pjq := { v.pjq with jobs := jobsWith (k.ended st why) v } }

/-- Job `k`, bound to the working printer `p`, has ended in `v` with the messages `out` sent to the printer before the end: the
printer is unbound and IDLE, and a pick pass follows (R118, R119, R140). -/
def EndsAt (p : Printer) (k : Job) (st : JobState) (why : Reason) (out : List PrinterMessage) (v u : State) : Prop :=
  ∃ w : State, JobCloses k st why { v with sent := v.sent ++ out.map (Sent.printer p) } w ∧ OnlyPrinter p v w ∧
    w.printer p = { v.printer p with bound := none, device := .idle, wrongBooks := 0 } ∧ PickPassed w u

/-- The PRINT_NOTE of a late line (R133). -/
def noteEntry (k : Job) (q : LinePosting) (s : State) : Entry :=
  { seq := s.dju.nextSeq, day := s.dayNumber, time := s.now, station := k.station, kind := .printNote, till := q.till,
    till2 := none, account := none, breakdown := none, amount := none, ref := some q.seq, status := .live, passbook := .none,
    transferId := none }

/-- PRINTING job `k`, at printer `p` with no line SENT, has sought its next line in `v`: none is left and it is DONE, the line
is sent, a late one after its note, or the journal has no room for the note (R132, R133, R138; the next line index of a
finished job is the model's, log 14). -/
def SeeksLine (p : Printer) (k : Job) (v u : State) : Prop :=
  (nextWaiting k.lines k.next = none → EndsAt p { k with next := 13 } .done .complete (bookOut k.place) v u) ∧
    ∀ (n : Nat) (l : JobLine), nextWaiting k.lines k.next = some n → k.lines[n - 1]? = some l →
      (v.lateLine l = none → u = { v with
        sent := v.sent ++ [.printer p (.printLine ((k.place.bind (·.line)).getD 1) l.text)]
        pjq := { v.pjq with
          jobs := jobsWith { k with next := n, lines := k.lines.set (n - 1) { l with state := .sent } } v } }) ∧
      ∀ q : LinePosting, v.lateLine l = some q →
        (1 ≤ v.free → v.dju.nextSeq ≤ 4294967295 → JournalGrows (noteEntry k q v) v u ∧ KeepsLink v u ∧ u = { v with
          sent := v.sent ++ [.printer p (.printLine ((k.place.bind (·.line)).getD 1) l.text)]
          dju := u.dju, hlc := u.hlc
          pjq := { v.pjq with jobs := jobsWith { k with
            next := n, lines := k.lines.set (n - 1) { l with state := .sent, noteSeq := some v.dju.nextSeq } } v } }) ∧
        ((v.free = 0 ∨ 4294967295 < v.dju.nextSeq) →
          EndsAt p { k with next := n } .failed .journalFull (bookOut k.place) v u)

/-- The page of PRINTING job `k` at printer `p` has ended in `v`: the job is DONE, or the page is turned, or page 32 was the
last (R136). -/
def PageEnds (p : Printer) (k : Job) (v u : State) : Prop :=
  (nextWaiting k.lines k.next = none → EndsAt p { k with next := 13 } .done .complete (bookOut k.place) v u) ∧
    (nextWaiting k.lines k.next ≠ none → ∀ q : Place, k.place = some q →
      (q.page < 32 → u.printer p = { v.printer p with device := .pageTurn } ∧ OnlyPrinter p v u ∧
        JobsShown k.station v u ∧ KeepsLine v u ∧ u = { v with
          sent := v.sent ++ [.printer p (.writeStripe (q.page + 1) 1), .printer p .eject], prc := u.prc, slc := u.slc
          pjq := { v.pjq with jobs := jobsWith { k with
            state := .pageTurn, place := some ⟨q.page + 1, some 1⟩, wait := some 180 } v } }) ∧
      (32 ≤ q.page → EndsAt p k .failed .bookFull [.eject] v u))

/-- What follows an answered line of job `k`: the completion of a cancel, the page end, or the next line (R132, R136, R142). -/
def FollowsLine (p : Printer) (k : Job) (v u : State) : Prop :=
  (k.cancelPending = true → EndsAt p k .cancelled .host (bookOut k.place) v u) ∧
    (k.cancelPending = false →
      (k.place.bind (·.line) = none → PageEnds p k v u) ∧ (k.place.bind (·.line) ≠ none → SeeksLine p k v u))

/-- The link test has begun afresh for batch `b`: its first TEST frame is out (R175). -/
def TestingFor (b : Batch) (s u : State) : Prop :=
  u.hos = { s.hos with
    state := .testing, batch := some b, next := some b.oldest, window := [], ackTimer := none, holdTimer := none
    test := { frames := 0, errored := 0, live := false, sticky := false, echoTimer := some 2, result := none,
              generator := u.hos.test.generator, chars := u.hos.test.chars } } ∧
    (u.hos.test.generator, u.hos.test.chars) = patternChars 16 0x7FFF#15 ∧ u.hos.test.chars.length = 16

/-- The cut of day `d` has been taken in `v`, brought by `cause`: the cut record with its snapshots, the next day, the tills'
opening counts with BALANCED tills closed and their holds ended, the batch made ready and CUT_DONE; no cash moves. A send that
may start by itself has begun its link test (R158 to R161, R168). -/
def CutFrom (cause : CutCause) (d : DayRecord) (v u : State) : Prop :=
  ∃ (r : CutRecord) (batch : Batch) (day : Nat) (entries : List Entry) (position : Counts), u.cut = none ∧
    day = (if d.number < 65535 then d.number + 1 else 1) ∧ entries = v.dju.journal.filter (fun e => e.day = d.number) ∧
    r.day = d.number ∧ r.seq = v.dju.nextSeq - 1 ∧ r.time = v.now ∧
    (∀ t : Till, r.tills[t].state = (v.till t).state ∧ r.tills[t].holder = (v.till t).holder ∧
      r.tills[t].counts = (v.till t).counts ∧ r.tills[t].opening = (v.till t).opening ∧
      r.tills[t].value = (v.tillValue t).getD 0 ∧ r.tills[t].cls = (match (v.till t).state with
        | .balanced => .balanced | .closed => .closed | _ => .unbalanced)) ∧
    r.transit.map (fun x => (x.id, x.source, x.destination, x.breakdown, x.amount, x.outSeq, x.waiting)) =
      v.tlu.transfers.map (fun x => (x.id, x.source, x.destination, x.breakdown, x.amount, x.outSeq, x.waiting)) ∧
    u.dju = { v.dju with cutRecord := some r, day := some { d with number := day } } ∧
    (∀ t : Till, u.till t = { v.till t with
      opening := (v.till t).counts
      unbalanced := decide ((v.till t).state ≠ .balanced ∧ (v.till t).state ≠ .closed)
      state := if (v.till t).state = .balanced then .closed else (v.till t).state
      holder := if (v.till t).state = .balanced then none else (v.till t).holder }) ∧
    (∀ st : Station, (∀ t : Till, (v.till t).state = .balanced → (v.till t).holder ≠ some st) → u.presence st = v.presence st ∧
      ∀ i : Indicator, i ≠ .cutArmed → hasBit (u.line st).indicators i = hasBit (v.line st).indicators i) ∧
    (∀ (t : Till) (st : Station), (v.till t).state = .balanced → (v.till t).holder = some st → u.held st = none ∧
      u.presence st = (match v.presence st with
        | .signedOn o => .signedOn { o with held := none }
        | .lost o g => .lost { o with held := none } g
        | p => p) ∧
      ((v.signOn? st).isSome = true → hasBit (u.line st).indicators .insertBook = hasBit (v.line st).indicators .insertBook ∧
        hasBit (u.line st).indicators .turnPage = hasBit (v.line st).indicators .turnPage ∧
        ∀ i ∈ [Indicator.tillOpen, .tillCounting, .limitHigh, .limitLow, .offerWaiting],
          hasBit (u.line st).indicators i = false)) ∧
    u.tlu = { v.tlu with tills := u.tlu.tills, branchOpening := some position } ∧
    (∀ x : Denom, position[x] = ((List.finRange 13).map fun t => (v.till t).counts[x]).sum +
      (v.tlu.transfers.map fun y => countOf y.breakdown x).sum) ∧
    batch = { day := d.number, oldest := 1, blocks := 1 + (entries.length + 7) / 8 + 4 +
      (if v.tlu.transfers = [] then 0 else 1) + 1 } ∧
    ((v.hos.autoStart = false ∨ v.pins.carrier = false) → u.hos = { v.hos with
      state := .ready, next := none, window := [], ackTimer := none, holdTimer := none, batch := some batch }) ∧
    (v.hos.autoStart = true → v.pins.carrier = true → TestingFor batch v u) ∧
    (∀ x : Station, (v.signOn? x).isSome = true → hasBit (u.line x).indicators .cutArmed = false) ∧
    (∀ x : Station, (u.station x).setup = (v.station x).setup) ∧ SlotsFollow v u ∧ KeepsLine v u ∧
    RaisesNotice ⟨v.now, .cutDone d.number day r.seq r.time entries.length
      ((List.finRange 13).filter fun t => (v.till t).state = .balanced).length
      ((List.finRange 13).filter fun t => (v.till t).state = .closed).length
      ((List.finRange 13).filter fun t => (v.till t).state ≠ .balanced ∧ (v.till t).state ≠ .closed).length
      ((List.finRange 13).filter fun t => (v.till t).state ≠ .balanced ∧ (v.till t).state ≠ .closed)
      v.tlu.transfers.length cause⟩ v u ∧
    u = { v with
      sent := u.sent, dju := u.dju, tlu := u.tlu, stu := u.stu, slc := u.slc, hos := u.hos, hlc := u.hlc, cut := none }

/-- What the cut puts on the ports: the first TEST frame of a send that starts by itself, else nothing (R168). -/
def cutSends (v u : State) : List Sent :=
  if v.hos.autoStart = true ∧ v.pins.carrier = true then [.test u.hos.test.chars] else []

/-- The body of block `n` of the batch of a cut record whose day's entries are `entries`: the header, the posting blocks of eight
records each with the printed flag in place of the passbook state, the till summaries of four tills each, the in-transit block
where something was in transit, and the trailer (R169 to R171; the flag of a posting printed on the batch's day is log 24). -/
def BodyIs (r : CutRecord) (entries : List Entry) (n : Nat) (body : BlockBody) : Prop :=
  ∀ (postings transit last : Nat), postings = (entries.length + 7) / 8 → transit = (if r.transit = [] then 0 else 1) →
    last = 1 + postings + 4 + transit + 1 →
    (n = 1 → body = .header r.seq r.time entries.length last) ∧
    (∀ i : Nat, 1 ≤ i → i ≤ postings → n = i + 1 → ∃ records : List Entry, body = .postings records ∧
      records.length = min 8 (entries.length - 8 * (i - 1)) ∧
      ∀ (k : Nat) (e sent : Entry), entries[8 * (i - 1) + k]? = some e → records[k]? = some sent →
        sent = { e with passbook := if e.passbook = .printed r.day then .printed r.day else .none }) ∧
    (∀ i : Nat, i < 4 → n = 2 + postings + i → ∃ tills : List TillSnap, body = .tills (4 * i) tills ∧
      tills.length = (if i < 3 then 4 else 1) ∧
      ∀ (k : Nat) (t : Till), k < tills.length → t.val = 4 * i + k → tills[k]? = some r.tills[t]) ∧
    (r.transit ≠ [] → n = 6 + postings → body = .transit r.transit) ∧
    (n = last → ∃ position : Counts, body = .trailer (entries.length + 13 + r.transit.length)
        ((entries.filter fun e => e.kind = .cashIn ∧ e.status = .live).map fun e => e.amount.getD 0).sum
        ((entries.filter fun e => e.kind = .cashOut ∧ e.status = .live).map fun e => e.amount.getD 0).sum position ∧
      ∀ d : Denom, position[d] = ((List.finRange 13).map fun t => r.tills[t].counts[d]).sum +
        (r.transit.map fun x => countOf x.breakdown d).sum)

/-- Batch `b` is handed to the link from block `n` on, in `v`: the blocks that R177 allows go out in turn, each of them of the
journal and the cut record as they stand; those that do not stand in the window join its tail with retry count 0, the next-to-send position
moves past them, and the ack timer runs (R169 to R171, R177). -/
def Hands (b : Batch) (n : Nat) (v u : State) : Prop :=
  ∃ (run : List Nat) (out : List Block), run = List.range' n (min (b.blocks + 1) (b.oldest + 4) - n) ∧
    (∀ (r : CutRecord) (d : DayRecord), v.dju.cutRecord = some r → v.dju.day = some d → out.map (·.number) = run ∧
      ∀ k ∈ out, k.branch = d.branch ∧ k.day = r.day ∧ BodyIs r (v.dju.journal.filter fun e => e.day = r.day) k.number k.body) ∧
    (v.dju.cutRecord = none ∨ v.dju.day = none → out = []) ∧ u = { v with
    sent := v.sent ++ out.map Sent.block
    hos := { v.hos with
      window := v.hos.window ++ (run.filter fun k => v.hos.window.all fun w => w.1 ≠ k).map fun k => (k, 0)
      next := some (n + run.length)
      ackTimer := if run = [] then v.hos.ackTimer else some (v.hos.ackTimer.getD 20) } }

/-- The send record has entered SUSPENDED from batch `b`, with its notice (R182, R191). -/
def SuspendedFor (why : SuspendReason) (item : SuspendItem) (b : Batch) (s u : State) : Prop :=
  u.hos.state = .suspended why ∧ u.hos.batch = some b ∧ u.hos.next = none ∧ u.hos.window = [] ∧ u.hos.ackTimer = none ∧
    u.hos.holdTimer = none ∧ u.hos.test.echoTimer = none ∧ u.hos.autoStart = s.hos.autoStart ∧
    u.hos.threshold = s.hos.threshold ∧ RaisesNotice ⟨s.now, .sendSuspended why b.day b.blocks b.oldest item⟩ s u

end Sys2Proof.Machine
end

