-- ==== Sys2Proof/Certificates/Slice0/Obligations.lean ====
section
/-! DEFINITION. The statements about the FB212 for the provers. `s` is the part before a command, `u` the part after it. -/

open Sys2Proof Sys2Proof.Machine

/-! ### The machine as a whole -/

/-- A step takes the command at the front of the queue and runs it on the queue's rest; on an empty queue the part idles,
which is the model's choice (log 1). -/
def Obligations.StepRunsTheFrontCommand : Prop :=
  (∀ (c : Instr) (rest : List Instr) (s : State), s.pending = c :: rest →
    step s = exec c { s with pending := rest }) ∧
  ∀ s : State, s.pending = [] → step s = .next s

/-- No command faults, none is refused by the model, and none touches the commands waiting behind it. -/
def Obligations.EveryCommandAnswersANextState : Prop :=
  ∀ (c : Instr) (s : State), ∃ u, exec c s = .next u ∧ u.pending = s.pending

/-- R190: a request is answered with its type plus 0x80 and its tag, and one that is refused leaves every record as it was.
R202: its reply holds the status alone; LIMIT ARM's WRONG_STATE carries the monitor state too, R60 being taken before R202, the
model's reading (log 25). -/
def Obligations.RequestsAreAnsweredAndRefusalsChangeNothing : Prop :=
  ∀ (c : Instr) (type tag : Nat) (s : State), c.request? = some (type, tag) → s.listening = true →
    ∃ (u : State) (before : List Sent) (st : Status) (items : List Item),
      exec c s = .next u ∧ u.sent = before ++ [.reply { type := type + 0x80, tag := tag, status := st, items := items }] ∧
      (st ≠ .ok → before = [] ∧ u = { s with sent := u.sent } ∧ (type ≠ 0x22 ∨ st ≠ .wrongState → items = []) ∧
        (type = 0x22 → st = .wrongState → ∃ t : Till, items = [.num 1 (s.monitor t).state.code]))

/-- R190, R197: a payload whose size does not fit the layout of its request type is refused with BAD_FIELD before any other
check. A part whose RESET is asserted discards requests and every event on a port or a timer; that one whose main power is off does
so too, and that one which has answered a RESTART discards requests, is the model's reading (logs 9 and 10). -/
def Obligations.MisfitsAreBadFieldsAndDeafPartsDiscard : Prop :=
  (∀ (c : Instr) (type tag : Nat) (s : State), c.request? = some (type, tag) →
    (s.listening = true → c.fits = false → exec c s =
      .next { s with sent := [.reply { type := type + 0x80, tag := tag, status := .badField, items := [] }] }) ∧
    (s.listening = false → Discards c s)) ∧
  ∀ (c : Instr) (s : State), c.reachesStopped = false → s.live = false → Discards c s

/-! ### What every step keeps -/

/-- R40, R66, R91, R94, R105, R124, R166, R175, R191: the notice queue never holds more than 32 notices, no table or queue
outgrows its capacity, and every timer stays within its range, none that runs at 0, given that the send is about the cut
record and that no arming stands beside it (R151, R166). -/
def Obligations.QueuesTablesAndTimersStayBounded : Prop :=
  (∀ s u : State, NoticesBounded s → step s = .next u → NoticesBounded u) ∧
  (∀ s u : State, TablesBounded s → step s = .next u → TablesBounded u) ∧
  (∀ s u : State, TimersInRange s → step s = .next u → TimersInRange u) ∧
  ∀ s u : State, TimersRun s → SendRuns s → SendFollowsCut s → DaysInOrder s → step s = .next u → TimersRun u

/-- R8, R13: the numbers held always form one unbroken run, ending just below the next sequence number. R16: the entries of at
most two days are held, the cut day's before the current day's. R28: the branch's cash balances with its opening position and
the current day's entries. -/
def Obligations.JournalKeepsRunning : Prop :=
  (∀ s u : State, JournalRuns s → step s = .next u → JournalRuns u) ∧
  (∀ s u : State, DaysInOrder s → SendFollowsCut s → step s = .next u → DaysInOrder u) ∧
  ∀ s u : State, CashBalances s → DaysInOrder s → SendFollowsCut s → JournalRuns s → step s = .next u → CashBalances u

/-- R26: no till holds a count above 65535. -/
def Obligations.CountsStayInRange : Prop :=
  ∀ s u : State, CountsInRange s → step s = .next u → CountsInRange u

/-- R193: the clock stays within a day and within the dates, and stands at 0 while it is invalid. -/
def Obligations.ClockStaysLegal : Prop :=
  ∀ s u : State, ClockLegal s → step s = .next u → ClockLegal u

/-- R26, R119: the two sides of a hold are written together, and so are the two sides of a printer's binding. -/
def Obligations.HoldsAndBindingsKeepAgreeing : Prop :=
  (∀ s u : State, HoldsAgree s → step s = .next u → HoldsAgree u) ∧
  ∀ s u : State, BindingsAgree s → step s = .next u → BindingsAgree u

/-- R166: the send record is IDLE exactly while no batch is outstanding, and its batch day is the cut record's day. R166, R177:
the window holds at most four blocks that follow one another from the oldest unacknowledged one, and none outside SENDING and
HELD, and each of the three timers runs in its state alone. -/
def Obligations.SendKeepsFollowingTheCut : Prop :=
  (∀ s u : State, SendFollowsCut s → step s = .next u → SendFollowsCut u) ∧
  ∀ s u : State, SendRuns s → SendFollowsCut s → DaysInOrder s → step s = .next u → SendRuns u

/-- The part after its first power-on meets every one of these. -/
def Obligations.ResetMeetsTheInvariants : Prop :=
  NoticesBounded State.reset ∧ JournalRuns State.reset ∧ CountsInRange State.reset ∧ ClockLegal State.reset ∧
    HoldsAgree State.reset ∧ TablesBounded State.reset ∧ TimersInRange State.reset ∧ SendFollowsCut State.reset ∧
    BindingsAgree State.reset ∧ DaysInOrder State.reset ∧ CashBalances State.reset ∧ TimersRun State.reset ∧
    SendRuns State.reset

/-! ### Starts (R23, R48, R62, R81, R103, R122, R148, R164, R186, R196 to R200) -/

/-- R23, R48, R62, R196: POWER_ON whose comparison fails is a cold start of the cash records: no day, an empty journal, CLOSED and
empty tills, no transfer and no opening position, unwatched limits. That it is so too while RESET is held is the model's reading
(log 9). -/
def Obligations.ColdStartEmptiesTheCashRecords : Prop :=
  ∀ (s : State) (x : Straps) (intact : Bool), s.pins.powered = false → (intact = false ∨ s.rcm.matching = false) →
    ∃ u, exec (.powerOn intact x) s = .next u ∧
    u.dju.day = none ∧ u.dayState = .unset ∧ u.dju.cutRecord = none ∧ u.dju.journal = [] ∧ u.free = 4096 ∧
    u.dju.nextSeq = 1 ∧ u.dju.lowMark = false ∧ u.tlu.denoms = none ∧ u.tlu.transfers = [] ∧ u.tlu.lastTransfer = 0 ∧
    u.tlu.branchOpening = none ∧
    (∀ t : Till, (u.till t).state = .closed ∧ (u.till t).holder = none ∧ (u.till t).count = none ∧
      (u.till t).diff = none ∧ (u.till t).unbalanced = false ∧
      ∀ d : Denom, (u.till t).counts[d] = 0 ∧ (u.till t).opening[d] = 0) ∧
    (∀ t : Till, u.monitor t =
      { limits := { lower := 0, upper := 0, filter := 0, enforce := false }, state := .off, streak := 0,
        streakDir := none, live := false, pending := none }) ∧
    u.pending = s.pending

/-- R186: POWER_ON whose comparison fails is a cold start of stations, screens, printers, jobs, arming and sender; the START
notice stands alone in the queue, the first POLL is out and the clock is invalid. While RESET is held the part sends nothing
and the queue is empty, the model's reading of R197 (log 9). -/
def Obligations.ColdStartEmptiesTheLinesAndTheSender : Prop :=
  ∀ (s : State) (x : Straps) (intact : Bool), s.pins.powered = false → (intact = false ∨ s.rcm.matching = false) →
    ∃ u, exec (.powerOn intact x) s = .next u ∧
    (∀ st : Station, u.presence st = .vacant ∧
      (u.station st).setup = { rows := 25, columns := 80, charset := 0, mask := 0xFF } ∧ (u.line st).output = [] ∧
      (u.line st).input = [] ∧ (u.line st).slot = none ∧ (u.line st).answer = .none ∧ (u.line st).lastBit = none ∧
      (u.line st).misses = 0 ∧ (u.line st).indicators = 0 ∧ (u.line st).test.running = false ∧
      (u.line st).test.frames = 0 ∧ (u.line st).test.errored = 0 ∧ (u.line st).test.live = false ∧
      (u.line st).test.sticky = false) ∧
    u.slc.first = 0 ∧ u.slc.last = 11 ∧ u.slc.round = 0 ∧
    (∀ p : Printer, u.printer p =
      { owner := .pool, hold := false, device := .offline, bound := none, timer := 5, probing := false, misses := 0,
        clears := 0, wrongBooks := 0, faultCode := none }) ∧
    u.pjq = { jobs := [], lastJob := 0 } ∧ u.cut = none ∧ u.hos.state = .idle ∧ u.hos.batch = none ∧
    u.hos.next = none ∧ u.hos.window = [] ∧ u.hos.ackTimer = none ∧ u.hos.holdTimer = none ∧
    u.hos.autoStart = false ∧ u.hos.threshold = 0 ∧ u.hos.test.frames = 0 ∧ u.hos.test.errored = 0 ∧
    u.hos.test.live = false ∧ u.hos.test.sticky = false ∧ u.hos.test.result = none ∧
    u.hlc.receive = .hunting ∧ u.hlc.buffer = none ∧ u.hlc.overflow = false ∧ u.hlc.rate = rateOf x ∧
    u.hlc.clock = { time := 0, date := 0, valid := false } ∧ u.pins = { s.pins with powered := true } ∧
    u.links = Links.hunting ∧
    (s.pins.resetHeld = false → u.live = true ∧ u.sent = [.screen 0 .poll .none] ∧
      u.hlc.notices = [{ time := 0, notice := .start .cold .powerOn false .unset none false .idle }]) ∧
    (s.pins.resetHeld = true → u.live = false ∧ u.sent = [] ∧ u.hlc.notices = [])

/-- R82, R123, R149, R187, R197, R198: a restart (RESET released, a RESTART under way, or a power-on that finds record memory
intact) loses every signed-on station with a fresh grace and its indicators set afresh from the till it holds, that till's trip,
the transfers, the jobs and the day state (R82, R104), takes every printer OFFLINE with its owner and hold flag, ends the
bound jobs INTERRUPTED, suspends a send under way with cause RESTART, and puts START at the head of the queue before their
notices; the clock runs on, but for a power-on. A READY send that may start by itself begins its link test. A power-on while
RESET is held winds up the same, but sends nothing and leaves the queue empty (log 9). R165: with an arming that awaits a gate that
is met, the cut follows what the same restart does of an arming that awaits its trigger, and START tells of it; that START carries
the values after the cut, and that its send starts last, is the model's reading (log 19). -/
def Obligations.RestartWindsUpTheWork : Prop :=
  (∀ (s : State) (x : Straps) (c : Instr) (cause : StartCause) (clock : Clock) (t : Nat) (send : SendState) (broken : Bool)
    (bound : List Job), RestartBy c x cause clock s → GateShut s → t = (if clock.valid then clock.time else 0) →
    broken = decide (s.hos.state = .testing ∨ s.hos.state = .sending ∨ s.hos.state = .held) →
    send = (if broken then .suspended .restart else s.hos.state) → bound = s.pjq.jobs.filter (fun j => j.printer.isSome) →
    ∃ u, exec c s = .next u ∧ u.pins.powered = true ∧ u.pins.carrier = s.pins.carrier ∧ u.links = Links.hunting ∧
      u.hlc.restarting = false ∧ u.hlc.clock = clock ∧ u.hlc.receive = .hunting ∧ u.hlc.buffer = none ∧
      u.hlc.rate = rateOf x ∧ u.hlc.startKind = .restart ∧ u.hlc.startCause = cause ∧
      (bound.length ≤ 4 → u.hlc.overflow = false) ∧
      (c = .powerOn true x → s.pins.resetHeld = true → u.live = false ∧ u.sent = [] ∧ u.hlc.notices = []) ∧
      (c ≠ .powerOn true x ∨ s.pins.resetHeld = false → u.live = true ∧
        u.hlc.notices.head? = some ⟨t, .start .restart cause clock.valid s.dayState (s.dju.day.map (·.number))
          s.dju.cutRecord.isSome send⟩ ∧
        (bound.length ≤ 4 → SendFollowsCut s → u.hlc.notices.tail =
          ((List.finRange 12).filterMap fun st => (s.signOn? st).map fun o =>
            ⟨t, .stationLost st o.operator o.held 600 true⟩) ++
          (bound.map fun j => ⟨t, .jobEnded j.id j.station .failed .interrupted j.printed j.printer j.place⟩) ++
          (match s.hos.batch with
            | some b => if broken then [⟨t, .sendSuspended .restart b.day b.blocks b.oldest .nothing⟩] else []
            | none => []))) ∧
      (∀ st : Station, (u.station st).setup = (s.station st).setup ∧ u.presence st =
        (match s.presence st with
        | .signedOn o => .lost o 600
        | .lost o _ => .lost o 600
        | _ => .vacant) ∧
        u.line st = { LineRec.cold with indicators := (u.line st).indicators } ∧
        (s.signOn? st = none → (u.line st).indicators = 0) ∧ ShowsHold st u ∧ ShowsJobs st u ∧
        ((s.signOn? st).isSome = true → hasBit (u.line st).indicators .cutArmed = decide (s.dayState = .armed))) ∧
      (∀ p : Printer, u.printer p =
        { owner := (s.printer p).owner, hold := (s.printer p).hold, device := .offline, bound := none, timer := 5,
          probing := false, misses := 0, clears := 0, wrongBooks := 0, faultCode := none }) ∧
      (∀ j ∈ u.pjq.jobs, j.printer = none) ∧ u.pjq.lastJob = s.pjq.lastJob ∧
      ((s.pjq.jobs.map (·.id)).Nodup → u.pjq.jobs = s.pjq.jobs.map fun j =>
        if j.printer.isSome then j.ended .failed .interrupted else j) ∧
      FreesPostings (bound.map (·.lines)).flatten s u ∧
      u.tlu = { s.tlu with
        transfers := s.tlu.transfers.map (fun y => { y with remaining := 300, waiting := false }) } ∧
      u.lmu = s.lmu ∧ u.cut = s.cut ∧ u.slc.first = s.slc.first ∧ u.slc.last = s.slc.last ∧
      (∀ b : Batch, s.hos.state = .ready → s.hos.batch = some b → s.hos.autoStart = true → s.pins.carrier = true →
        u.live = true → TestingFor b s u ∧ u.sent.getLast? = some (.test u.hos.test.chars)) ∧
      ((s.hos.state ≠ .ready ∨ s.hos.batch = none ∨ s.hos.autoStart = false ∨ s.pins.carrier = false ∨ u.live = false) →
        u.hos = { s.hos with
          state := send, next := none, window := [], ackTimer := none, holdTimer := none, test := LinkTest.cold }) ∧
      u.pending = s.pending) ∧
  ∀ (s v : State) (x : Straps) (c : Instr) (cause : StartCause) (clock : Clock) (a : Arm) (d : DayRecord) (day : Nat),
    RestartBy c x cause clock s → s.cut = some a → a.state = .awaitGate → s.gateMet = true → s.dju.day = some d →
    DaysInOrder s → SendFollowsCut s → (s.pjq.jobs.filter (fun j => j.printer.isSome)).length ≤ 4 →
    day = (if d.number < 65535 then d.number + 1 else 1) →
    exec c { s with cut := some { a with state := .awaitTrigger } } = .next v →
    ∃ u, exec c s = .next u ∧
      (v.live = true → ∃ w : State, w = { v with hlc := { v.hlc with
          notices := ⟨if clock.valid then clock.time else 0, .start .restart cause clock.valid .opened (some day) true .ready⟩ ::
            v.hlc.notices.tail } } ∧ CutFrom .gate d w u ∧ u.sent = v.sent ++ cutSends w u) ∧
      (v.live = false → ∃ w : State, CutFrom .gate d { v with hos := { v.hos with autoStart := false } } w ∧
        u = { w with sent := [], hos := { w.hos with autoStart := v.hos.autoStart }, hlc := v.hlc })

/-- R196, R197: RESTART is answered and the restart waits for the reply to leave the line; loss of main power stops the part,
and record memory keeps what it holds; the asserted RESET line empties the notice queue and the receivers and touches nothing
else, and RESET released on a part without power waits for the power-on (log 9). A power-on with power present, and a
RESTART_BEGIN that no RESTART awaits, change nothing (log 9). -/
def Obligations.TheWaysIntoAStart : Prop :=
  (∀ (s : State) (tag : Nat), s.listening = true → exec (.restart ⟨tag, some ⟨⟩⟩) s =
    .next { s with sent := [replyTo 0x63 tag .ok []], hlc := { s.hlc with restarting := true } }) ∧
  (∀ s : State, s.pins.powered = true → ∃ u, exec .lossOfMainPower s = .next u ∧ u.live = false ∧ u.sent = [] ∧
    u.pins = { s.pins with powered := false } ∧ u.rcm = s.rcm ∧ u.dju = s.dju ∧ u.lmu = s.lmu ∧ u.pjq = s.pjq ∧
    u.cut = s.cut ∧
    u.tlu = { s.tlu with transfers := u.tlu.transfers } ∧
    u.tlu.transfers.map (fun x => { x with remaining := 0, waiting := false }) =
      s.tlu.transfers.map (fun x => { x with remaining := 0, waiting := false }) ∧
    u.slc.first = s.slc.first ∧ u.slc.last = s.slc.last ∧
    (∀ p : Printer, (u.printer p).owner = (s.printer p).owner ∧ (u.printer p).hold = (s.printer p).hold) ∧
    u.hos.state = s.hos.state ∧ u.hos.batch = s.hos.batch ∧ u.hos.autoStart = s.hos.autoStart ∧
    u.hos.threshold = s.hos.threshold ∧
    (∀ st : Station, u.signOn? st = s.signOn? st ∧ (u.station st).setup = (s.station st).setup) ∧ u.attn = false) ∧
  (∀ s : State, s.pins.powered = false → exec .lossOfMainPower s = .next { s with sent := [] }) ∧
  (∀ s : State, exec .resetAssert s = .next { s with
    sent := [], pins := { s.pins with resetHeld := true }, links := Links.hunting,
    hlc := { s.hlc with receive := .hunting, buffer := none, notices := [] } }) ∧
  (∀ (s : State) (x : Straps), s.pins.powered = false ∨ s.pins.resetHeld = false →
    exec (.resetRelease x) s = .next { s with sent := [], pins := { s.pins with resetHeld := false } }) ∧
  ∀ (s : State) (x : Straps) (intact : Bool), (s.pins.powered = true → Discards (.powerOn intact x) s) ∧
    (s.live = false ∨ s.hlc.restarting = false → Discards (.restartBegin x) s)

/-! ### The tick and the clock (R193, R194, R154) -/

/-- R193: at each tick the clock goes to the next second, in a running part whatever else the tick does, and in a part
whose RESET is held with nothing else changed. -/
def Obligations.TickAdvancesTheClock : Prop :=
  ∀ (s : State) (c : Clock), NextSecond s.hlc.clock c →
    (s.live = true → ∃ u, exec .clockTick s = .next u ∧ u.hlc.clock = c) ∧
    (s.pins.powered = true → s.pins.resetHeld = true →
      exec .clockTick s = .next { s with sent := [], hlc := { s.hlc with clock := c } })

/-- R44, R72, R139, R112, R113, R166: at a tick at which no timer of a block runs out and no trigger is met, every timer of
the blocks is one second lower and nothing else of theirs changes. R193: a run-out that falls due alone is taken within the
tick. That it comes after the clock and the other timers have moved, and that a timer which it sets is not lowered in that tick,
is the model's reading (log 6); that its own row is the tick as it reaches one timer is the model's choice (log 3). The row of a
run-out that is not due changes nothing (log 12). -/
def Obligations.QuietTickLowersTheTimers : Prop :=
  (∀ s : State, s.live = true →
    (∀ (a : Arm) (next : Clock), s.cut = some a → NextSecond s.hlc.clock next → a.state = .awaitTrigger → next.valid = true →
      a.trigger ≠ some next.time) →
    (∀ x ∈ s.tlu.transfers, 2 ≤ x.remaining) → (∀ (st : Station) (o : SignOn) (g : Nat), s.presence st = .lost o g → 2 ≤ g) →
    (∀ j ∈ s.pjq.jobs, ∀ w : Nat, j.wait = some w → 2 ≤ w) →
    (∀ p : Printer, (s.printer p).device ≠ .fault → 2 ≤ (s.printer p).timer) →
    (∀ n : Nat, s.hos.ackTimer = some n → 2 ≤ n) → (∀ n : Nat, s.hos.test.echoTimer = some n → 2 ≤ n) →
    (∀ n : Nat, s.hos.holdTimer = some n → 2 ≤ n) →
    ∃ u, exec .clockTick s = .next u ∧ NextSecond s.hlc.clock u.hlc.clock ∧
      u = { s with
        sent := [], ticks := u.ticks, hlc := { s.hlc with clock := u.hlc.clock }, stu := u.stu, prc := u.prc
        tlu := { s.tlu with transfers := s.tlu.transfers.map fun x => { x with remaining := x.remaining - 1 } }
        pjq := { s.pjq with jobs := s.pjq.jobs.map fun j => { j with wait := j.wait.map (· - 1) } }
        hos := { s.hos with
          ackTimer := s.hos.ackTimer.map (· - 1), holdTimer := s.hos.holdTimer.map (· - 1)
          test := { s.hos.test with echoTimer := s.hos.test.echoTimer.map (· - 1) } } } ∧
      (∀ st : Station, (u.station st).setup = (s.station st).setup ∧
        u.presence st = match s.presence st with | .lost o g => .lost o (g - 1) | p => p) ∧
      ∀ p : Printer, u.printer p =
        if (s.printer p).device = .fault then s.printer p else { s.printer p with timer := (s.printer p).timer - 1 }) ∧
  ∀ (s : State) (next : Clock) (c : Instr), s.live = true → NextSecond s.hlc.clock next → TimersRun s → SendRuns s →
    (s.tlu.transfers.map (·.id)).Nodup → (s.pjq.jobs.map (·.id)).Nodup →
    (dueRows next s = [c] → ∃ u, exec .clockTick s = .next u ∧ exec c (elapsed next c s) = .next u) ∧
    (c.isRunOut = true → c ∉ dueRows next s → Discards c s)

/-- R194: TIME SET sets the clock and makes it valid; the reply carries the old clock and the new value. No AT_TIME arming
awaits the time given. -/
def Obligations.TimeSetSetsTheClock : Prop :=
  ∀ (s : State) (tag time date : Nat), s.listening = true → time ≤ 86399 → date ≤ 65535 →
    (∀ a, s.cut = some a → a.state = .awaitTrigger → a.trigger ≠ some time) →
    exec (.timeSet ⟨tag, some ⟨time, date⟩⟩) s = .next { s with
      sent := [replyTo 0x61 tag .ok
        [.num 4 s.hlc.clock.time, .num 2 s.hlc.clock.date, flag s.hlc.clock.valid, .num 4 time, .num 2 date]]
      hlc := { s.hlc with clock := { time := time, date := date, valid := true } } }

/-! ### The business day and the journal (R5 to R7, R15, R21, R22) -/

/-- R5: DENOM SET, its checks in their order and the table replaced whole. That a list of other than ten pairs is judged at the
rule's check of the ten values, after the day state, and not by R190's check of the size is the model's choice (log 16). -/
def Obligations.DenomSetReplacesTheTable : Prop :=
  ∀ (s : State) (tag : Nat) (pairs : List (Nat × Nat)), s.listening = true →
    (s.dayState ≠ .unset → exec (.denomSet ⟨tag, some ⟨pairs⟩⟩) s =
      .next { s with sent := [replyTo 0x01 tag .wrongState []] }) ∧
    (s.dayState = .unset →
      (∀ faces : Counts, pairs.length = 10 → (∀ d : Denom, (d.val, faces[d]) ∈ pairs) →
        (∀ d : Denom, 1 ≤ faces[d] ∧ faces[d] ≤ 100000) → (∀ d e : Denom, d ≠ e → faces[d] ≠ faces[e]) →
        exec (.denomSet ⟨tag, some ⟨pairs⟩⟩) s =
          .next { s with sent := [replyTo 0x01 tag .ok []], tlu := { s.tlu with denoms := some faces } }) ∧
      ((¬ ∃ faces : Counts, pairs.length = 10 ∧ (∀ d : Denom, (d.val, faces[d]) ∈ pairs) ∧
          (∀ d : Denom, 1 ≤ faces[d] ∧ faces[d] ≤ 100000) ∧ ∀ d e : Denom, d ≠ e → faces[d] ≠ faces[e]) →
        exec (.denomSet ⟨tag, some ⟨pairs⟩⟩) s = .next { s with sent := [replyTo 0x01 tag .badField []] }))

/-- R6, R7, R28: OPENING SET sets a till's counts and opening counts and nothing else; DAY BEGIN opens the day and takes
the branch opening position. -/
def Obligations.OpeningSetAndDayBeginOpenTheDay : Prop :=
  ∀ (s : State) (tag : Nat), s.listening = true → s.dayState = .unset →
    (∀ (t : Till) (pairs : List (Nat × Nat)) (counts : Counts), pairs.length = 10 →
      (∀ d : Denom, (d.val, counts[d]) ∈ pairs) → (∀ d : Denom, counts[d] ≤ 65535) →
      ∃ u, exec (.openingSet ⟨tag, some ⟨t.val, pairs⟩⟩) s = .next u ∧
        u.till t = { s.till t with counts := counts, opening := counts } ∧ OnlyTill t s u ∧
        u = { s with sent := [replyTo 0x02 tag .ok []], tlu := u.tlu }) ∧
    ∀ (branch : Text) (day : Nat), branch.length = 6 → (∀ b ∈ branch, 0x30 ≤ b.toNat ∧ b.toNat ≤ 0x39) → 1 ≤ day →
      day ≤ 65535 → s.tlu.denoms.isSome = true →
      ∃ (u : State) (opening : Counts), exec (.dayBegin ⟨tag, some ⟨branch, day⟩⟩) s = .next u ∧
        u = { s with
          sent := [replyTo 0x03 tag .ok []]
          dju := { s.dju with day := some { number := day, branch := branch } }
          tlu := { s.tlu with branchOpening := some opening } } ∧
        ∀ d : Denom, opening[d] = ((List.finRange 13).map fun t => (s.till t).opening[d]).sum

/-- R21: JOURNAL READ returns the held entries from the starting number on, as many as the maximum allows and as fit whole
into the payload, and changes nothing. That a list has a count beside the number returned, and so the room for the entries,
is the model's choice (R202, log 15). -/
def Obligations.JournalReadReturnsTheRun : Prop :=
  ∀ (s : State) (tag start maximum : Nat) (from' : List Entry), s.listening = true → JournalRuns s → 1 ≤ start →
    start ≤ 4294967295 → 1 ≤ maximum → maximum ≤ 16 → ((s.entry? start).isSome = true ∨ start = s.dju.nextSeq) →
    from' = s.dju.journal.filter (fun e => start ≤ e.seq) →
    ∃ (n next : Nat) (more : Bool),
      exec (.journalRead ⟨tag, some ⟨start, maximum⟩⟩) s = .next { s with sent := [replyTo 0x05 tag .ok
        ([.num 1 n] ++ (from'.take n).map Item.posting ++ [.num 1 n, .num 4 next, flag more])] } ∧
      n ≤ maximum ∧ n ≤ from'.length ∧ ((from'.take n).map Entry.size).sum + 7 ≤ 511 ∧
      (n < maximum → n < from'.length → 511 < ((from'.take (n + 1)).map Entry.size).sum + 7) ∧
      next = (if start + n ≤ 4294967295 then start + n else 0) ∧ (more = true ↔ n < from'.length)

/-- R22, R47, R80, R101, R121, R163, R185, R195: the status requests report the records as shown, item by item, and change
nothing. The items' forms, where R202 leaves them open, are the model's choice (log 15), and so are the list of transfers
of a station without a sign-on (log 27) and the revision letter (log 13). -/
def Obligations.StatusRequestsChangeNothing : Prop :=
  ∀ (s : State) (tag : Nat) (t : Till) (st : Station) (c : Instr) (type : Nat) (items : List Item), s.listening = true →
    (c, type, items) ∈ ([
      (.dayStatus ⟨tag, some ⟨⟩⟩, 0x04,
        [u8 s.dayState.code] ++ optNum 2 (s.dju.day.map (·.number)) ++
        optItem s.dju.day (.raw (List.replicate 6 0)) (fun d => .raw d.branch) ++ [u16 (4096 - s.dju.journal.length)] ++
        optNum 4 (s.dju.journal.head?.map (·.seq)) ++ optNum 4 (s.dju.journal.getLast?.map (·.seq)) ++
        optNum 4 (if s.dju.nextSeq ≤ 4294967295 then some s.dju.nextSeq else none) ++ [flag s.dju.cutRecord.isSome] ++
        optNum 2 (s.dju.cutRecord.map (·.day)) ++ optNum 4 (s.dju.cutRecord.map (·.seq)) ++ [flag s.dju.lowMark]),
      (.tillStatus ⟨tag, some ⟨t.val⟩⟩, 0x1A,
        [u8 (s.till t).state.code] ++ optStation (s.till t).holder ++ ten (s.till t).counts ++ optNum 8 (s.tillValue t) ++
        ten (s.till t).opening ++ optTen ((s.till t).count.map (·.book)) ++ optStation ((s.till t).count.map (·.station)) ++
        optNum 4 ((s.till t).count.map (·.time)) ++ optTenInt ((s.till t).diff.map (·.diffs)) ++
        optInt 8 ((s.till t).diff.map (·.total)) ++ optNum 4 ((s.till t).diff.map (·.seq)) ++
        optNum 2 ((s.till t).diff.map (·.day)) ++ [flag (s.till t).unbalanced] ++
        listOf (s.tlu.transfers.filter fun x => x.source = t ∨ x.destination = t)
          (fun x => [u8 x.id, u8 (if x.source = t then 1 else 2)]) ++
        [u64 (s.monitor t).limits.lower, u64 (s.monitor t).limits.upper, u8 (s.monitor t).limits.filter,
          flag (s.monitor t).limits.enforce, u8 (s.monitor t).state.code, u8 (s.monitor t).streak] ++
        optNum 1 ((s.monitor t).streakDir.map Direction.code) ++ [flag (s.monitor t).live] ++
        optNum 1 (match (s.monitor t).state with | .tripped d => some d.code | _ => none) ++
        optNum 8 ((s.monitor t).pending.map (·.lower)) ++ optNum 8 ((s.monitor t).pending.map (·.upper)) ++
        optNum 1 ((s.monitor t).pending.map (·.filter)) ++
        optItem (s.monitor t).pending (u8 0) (fun l => flag l.enforce) ++ optTen s.tlu.branchOpening),
      (.stationStatus ⟨tag, some ⟨stationNo st⟩⟩, 0x2B,
        [u8 (s.presence st).code] ++ optItem (s.signOn? st) (textItem 8 []) (fun o => textItem 8 o.operator) ++
        optItem (s.signOn? st) (u8 0) (fun o => u8 o.role.code) ++ optNum 4 ((s.signOn? st).map (·.time)) ++
        optTill ((s.signOn? st).bind (·.held)) ++
        optNum 2 (match s.presence st with | .lost _ g => some g | _ => none) ++
        [u8 (s.station st).setup.rows, u8 (s.station st).setup.columns, u8 (s.station st).setup.charset,
          u8 (s.station st).setup.mask.toNat, u8 (s.line st).indicators.toNat, flag (s.line st).slot.isSome,
          u8 (s.line st).output.length, u8 (s.line st).input.length, u8 (s.line st).misses,
          u8 (if (s.line st).test.running then 1 else 2), u16 (s.line st).test.frames, u8 (s.line st).test.errored,
          flag (s.line st).test.live, flag (s.line st).test.sticky,
          u8 (s.pjq.jobs.filter fun j => j.station = st ∧ j.state.unfinished = true).length] ++
        listOf (s.tlu.transfers.filter fun x => x.offeredTo = some st ∨
          ∃ t ∈ (s.signOn? st).bind (·.held), x.source = t ∨ x.destination = t) (fun x => [u8 x.id])),
      (.scanStatus ⟨tag, some ⟨⟩⟩, 0x35,
        [u8 (stationNo s.slc.first), u8 (stationNo s.slc.last), u8 s.slc.round] ++
        listOf (List.finRange 12) fun x => [flag (decide (InScan s.slc.first s.slc.last x)), flag (s.countedPresent x)]),
      (.printerStatus ⟨tag, some ⟨⟩⟩, 0x44,
        listOf (List.finRange 4) (fun p =>
          [u8 (s.printer p).owner.code, flag (s.printer p).hold, u8 (s.printer p).device.code] ++
          optNum 1 (s.printer p).bound ++ optNum 1 (((s.printer p).bound.bind s.job?).map fun j => j.state.code) ++
          [u8 (s.printer p).misses, flag (s.printer p).probing, u8 (s.printer p).wrongBooks] ++
          optNum 1 ((s.printer p).faultCode.map FaultCode.code)) ++
        [u8 (s.pjq.jobs.filter fun j => j.state = .queued).length, u8 s.pjq.jobs.length]),
      (.cutStatus ⟨tag, some ⟨⟩⟩, 0x52,
        [u8 (armCode s.cut)] ++ optNum 1 (s.cut.map (·.mode.code)) ++ optNum 4 (s.cut.bind (·.trigger)) ++
        optItem s.cut (u8 0) (fun a => flag a.force) ++ optNum 4 (s.cut.map (·.armedAt)) ++
        optNum 4 (s.cut.bind (·.triggeredAt)) ++ [flag s.hlc.clock.valid, flag s.gateMet] ++
        listOf ((List.finRange 13).filter fun x => (s.till x).state ≠ .closed ∧ (s.till x).state ≠ .balanced)
          (fun x => [u8 x.val, u8 (s.till x).state.code] ++ optStation (s.till x).holder) ++
        listOf s.tlu.transfers (fun x => [u8 x.id, flag x.waiting]) ++ [flag s.dju.cutRecord.isSome] ++
        optNum 2 (s.dju.cutRecord.map (·.day)) ++ optNum 4 (s.dju.cutRecord.map (·.seq)) ++
        optNum 4 (s.dju.cutRecord.map (·.time)) ++
        optNum 1 (s.dju.cutRecord.map fun r => (r.tills.toList.filter fun x => x.cls = .balanced).length) ++
        optNum 1 (s.dju.cutRecord.map fun r => (r.tills.toList.filter fun x => x.cls = .closed).length) ++
        optNum 1 (s.dju.cutRecord.map fun r => (r.tills.toList.filter fun x => x.cls = .unbalanced).length) ++
        optNum 1 (s.dju.cutRecord.map (·.transit.length))),
      (.sendStatus ⟨tag, some ⟨⟩⟩, 0x5C,
        [u8 s.hos.state.code] ++
        optNum 1 (match s.hos.state with | .suspended why => some why.code | _ => none) ++
        optNum 1 (match s.hos.state with | .suspended (.rejected code) => some code | _ => none) ++
        optNum 2 (s.hos.batch.map (·.day)) ++ optNum 2 (s.hos.batch.map (·.blocks)) ++
        optNum 2 (s.hos.batch.map fun b => (s.dju.journal.filter fun e => e.day = b.day).length) ++
        optNum 2 (s.hos.batch.map (·.oldest)) ++ optNum 2 s.hos.next ++ listOf s.hos.window (fun w => [u16 w.1, u8 w.2]) ++
        optNum 2 s.hos.ackTimer ++ optNum 2 s.hos.holdTimer ++
        [flag s.pins.carrier, flag s.hos.autoStart, u8 s.hos.threshold, u16 s.hos.test.frames, u8 s.hos.test.errored,
          flag s.hos.test.live, flag s.hos.test.sticky, u8 (resultCode s.hos.test.result)] ++ optNum 2 s.hos.test.echoTimer),
      (.identify ⟨tag, some ⟨⟩⟩, 0x62,
        [.raw [0x02, 0x56, 0x57], .raw [0x05, 0x46, 0x42, 0x32, 0x31, 0x32], .raw [0x01, BitVec.ofNat 8 (65 + Config.revision.val)],
          u8 s.hlc.rate.code, u32 s.hlc.clock.time, u16 s.hlc.clock.date, flag s.hlc.clock.valid, u8 s.hlc.startKind.code,
          u8 s.hlc.startCause.code])] : List (Instr × Nat × List Item)) →
    exec c s = .next { s with sent := [replyTo type tag .ok items] }

/-! ### Tills (R29 to R44) -/

/-- R29: TAKE TILL opens the till for the station; the reply carries the till's value. R27, R54: the station's indicators of a hold
follow the till, its trip and the offers to it, no other changes, and the status slot follows (R95, R96). -/
def Obligations.TakeTillOpensTheTill : Prop :=
  ∀ (s : State) (tag : Nat) (st : Station) (t : Till) (o : SignOn), s.listening = true → s.dayState ≠ .unset →
    s.presence st = .signedOn o → o.held = none → ((s.till t).state = .closed ∨ (s.till t).state = .lapsed) →
    ((t = 0 ∨ (s.till t).state = .lapsed) → o.role = .supervisor) →
    ∃ u, exec (.takeTill ⟨tag, some ⟨stationNo st, t.val⟩⟩) s = .next u ∧
      u.till t = { s.till t with state := .opened, holder := some st } ∧ OnlyTill t s u ∧
      u.presence st = .signedOn { o with held := some t } ∧ OnlyPresence st s u ∧
      hasBit (u.line st).indicators .tillOpen = true ∧ hasBit (u.line st).indicators .tillCounting = false ∧
      hasBit (u.line st).indicators .limitHigh = decide ((s.monitor t).state = .tripped .high) ∧
      hasBit (u.line st).indicators .limitLow = decide ((s.monitor t).state = .tripped .low) ∧
      (hasBit (u.line st).indicators .offerWaiting = true ↔ ∃ x ∈ s.tlu.transfers, x.destination = t) ∧
      HoldShown st s u ∧ KeepsLine s u ∧
      u = { s with
        sent := [replyTo 0x10 tag .ok [valueItem (s.tillValue t)]], tlu := u.tlu, stu := u.stu, slc := u.slc }

/-- R30: RELEASE TILL closes a BALANCED till and ends the hold; the cash stays in the till. R27, R54: the station's indicators of a
hold clear, no other changes, and the status slot follows (R95, R96). No arming awaits the gate. -/
def Obligations.ReleaseTillClosesTheTill : Prop :=
  ∀ (s : State) (tag : Nat) (st : Station) (t : Till) (o : SignOn), s.listening = true → s.presence st = .signedOn o →
    (s.till t).holder = some st → (s.till t).state = .balanced → NoGate s →
    ∃ u, exec (.releaseTill ⟨tag, some ⟨stationNo st, t.val⟩⟩) s = .next u ∧
      u.till t = { s.till t with state := .closed, holder := none, count := none } ∧ OnlyTill t s u ∧
      u.presence st = .signedOn { o with held := none } ∧ OnlyPresence st s u ∧
      (∀ i ∈ [Indicator.tillOpen, .tillCounting, .limitHigh, .limitLow, .offerWaiting],
        hasBit (u.line st).indicators i = false) ∧
      HoldShown st s u ∧ KeepsLine s u ∧
      u = { s with sent := [replyTo 0x11 tag .ok []], tlu := u.tlu, stu := u.stu, slc := u.slc }

/-- R31, R32: a POST that passes its checks moves the till's counts by the breakdown and appends its entry; then LMU looks at
the till (R51 to R54). -/
def Obligations.PostMovesTheCountsAndJournalsThem : Prop :=
  ∀ (s : State) (tag n : Nat) (st : Station) (t : Till) (o : SignOn) (k : Kind) (pairs : List (Nat × Nat))
    (b : List (Denom × Nat)) (account : Option Text), s.listening = true → s.dayState ≠ .unset →
    s.presence st = .signedOn o → o.held = some t → (s.till t).state = .opened → postKind? n = some k →
    ((k = .cashIn ∨ k = .cashOut) ↔ t ≠ 0) → breakdown? pairs = some b → accountOk k account = true →
    (k.raises = true → ∀ d : Denom, (s.till t).counts[d] + countOf b d ≤ 65535) →
    (k.raises = false → ∀ d : Denom, countOf b d ≤ (s.till t).counts[d]) →
    (k.raises = true → (s.monitor t).enforces .high = false) → (k.raises = false → (s.monitor t).enforces .low = false) →
    321 ≤ s.free → s.dju.nextSeq ≤ 4294967295 →
    ∃ u, exec (.post ⟨tag, some ⟨stationNo st, n, t.val, pairs, account⟩⟩) s = .next u ∧
      (∀ d : Denom, (u.till t).counts[d] = if k.raises then (s.till t).counts[d] + countOf b d
        else (s.till t).counts[d] - countOf b d) ∧
      u.till t = { s.till t with counts := (u.till t).counts } ∧ OnlyTill t s u ∧
      JournalGrows {
        seq := s.dju.nextSeq, day := s.dayNumber, time := s.now, station := st, kind := k, till := t, till2 := none,
        account := account, breakdown := some (signedPairs b), amount := some (s.amount b), ref := none,
        status := .live, passbook := .none, transferId := none } s u ∧
      OnlyMonitor t s u ∧ LooksAt t s.dju.nextSeq (beforeLook s u) u ∧ KeepsLine s u ∧ KeepsLink s u ∧
      u = { s with
        sent := [replyTo 0x12 tag .ok [.num 4 s.dju.nextSeq, valueItem (u.tillValue t)]]
        tlu := u.tlu, dju := u.dju, lmu := u.lmu, slc := u.slc, hlc := u.hlc }

/-- R33, R34: a VOID that passes its checks moves the counts back, makes the target VOIDED and appends a VOID entry; a
target whose line waits is DROPPED from the passbook and its line SKIPPED (R144). R17: the append marks the journal low as any
other; then LMU looks at the till (R51 to R54). -/
def Obligations.VoidReversesAPosting : Prop :=
  ∀ (s : State) (tag : Nat) (st : Station) (o : SignOn) (e : Entry) (b : List (Denom × Int)), s.listening = true →
    s.dayState ≠ .unset → s.presence st = .signedOn o → JournalRuns s → e ∈ s.dju.journal →
    (e.kind = .cashIn ∨ e.kind = .cashOut) → e.status = .live → e.day = s.dayNumber → o.held = some e.till →
    (o.role = .teller → e.station = st) → (s.till e.till).state = .opened → s.inFlight e = false → 1 ≤ e.seq →
    e.breakdown = some b →
    (e.kind = .cashOut → ∀ d : Denom, (s.till e.till).counts[d] + countOf (plainPairs b) d ≤ 65535) →
    (e.kind = .cashIn → ∀ d : Denom, countOf (plainPairs b) d ≤ (s.till e.till).counts[d]) →
    321 ≤ s.free → s.dju.nextSeq ≤ 4294967295 →
    ∃ u, exec (.void ⟨tag, some ⟨stationNo st, e.seq⟩⟩) s = .next u ∧
      (∀ d : Denom, (u.till e.till).counts[d] = if e.kind = .cashOut
        then (s.till e.till).counts[d] + countOf (plainPairs b) d else (s.till e.till).counts[d] - countOf (plainPairs b) d) ∧
      OnlyTill e.till s u ∧
      u.entry? e.seq = some { e with
        status := .voided, passbook := if e.passbook = .pending then .dropped else e.passbook } ∧
      (∀ q : Nat, q ≠ e.seq → q ≠ s.dju.nextSeq → u.entry? q = s.entry? q) ∧
      u.dju.journal.getLast? = some {
        seq := s.dju.nextSeq, day := s.dayNumber, time := s.now, station := st, kind := .void, till := e.till,
        till2 := none, account := none, breakdown := none, amount := none, ref := some e.seq, status := .live,
        passbook := .none, transferId := none } ∧
      u.dju = { s.dju with journal := u.dju.journal, nextSeq := s.dju.nextSeq + 1, lowMark := u.dju.lowMark } ∧
      MarksLow s u ∧ u.till e.till = { s.till e.till with counts := (u.till e.till).counts } ∧
      (e.passbook ≠ .pending → u.pjq = s.pjq) ∧ (e.passbook = .pending → u.pjq = (s.skipLines e.seq).pjq) ∧
      OnlyMonitor e.till s u ∧ LooksAt e.till s.dju.nextSeq (beforeLook s u) u ∧ KeepsLine s u ∧ KeepsLink s u ∧
      u = { s with
        sent := [replyTo 0x13 tag .ok [.num 4 s.dju.nextSeq, valueItem (u.tillValue e.till)]]
        tlu := u.tlu, dju := u.dju, lmu := u.lmu, slc := u.slc, hlc := u.hlc, pjq := u.pjq }

/-- R36, R38: COUNT BEGIN freezes an OPEN till with its book counts, and COUNT ABANDON opens it again with pending limits
applied (R58); neither makes an entry, and the holder's indicators follow (R27). -/
def Obligations.CountsBeginAndAreAbandoned : Prop :=
  ∀ (s : State) (tag : Nat) (st : Station) (t : Till) (o : SignOn), s.listening = true → s.presence st = .signedOn o →
    (s.till t).holder = some st →
    ((s.till t).state = .opened → (∀ x ∈ s.tlu.transfers, x.source ≠ t ∧ x.destination ≠ t) →
      ∃ u, exec (.countBegin ⟨tag, some ⟨stationNo st, t.val⟩⟩) s = .next u ∧
        u.till t = { s.till t with
          state := .counting, count := some { book := (s.till t).counts, station := st, time := s.now } } ∧
        OnlyTill t s u ∧ HoldShown st s u ∧ KeepsLine s u ∧
        u = { s with sent := [replyTo 0x14 tag .ok []], tlu := u.tlu, slc := u.slc }) ∧
    ((s.till t).state = .counting →
      ∃ u, exec (.countAbandon ⟨tag, some ⟨stationNo st, t.val⟩⟩) s = .next u ∧
        u.till t = { s.till t with state := .opened, count := none } ∧ OnlyTill t s u ∧
        (u.monitor t).pending = none ∧ (∀ l, (s.monitor t).pending = some l → (u.monitor t).limits = l) ∧
        ((s.monitor t).pending = none → u.monitor t = s.monitor t) ∧ OnlyMonitor t s u ∧ u.lmu = (s.applyPending t).lmu ∧
        HoldShown st s u ∧ KeepsLine s u ∧
        u = { s with sent := [replyTo 0x16 tag .ok []], tlu := u.tlu, lmu := u.lmu, slc := u.slc })

/-- R37: COUNT DECLARE makes the till BALANCED; a difference is journalled as an ADJUST, the declared counts are believed
and the difference is kept, and with none no entry is made. Pending limits are applied (R58), the holder's indicators follow
(R27), and after an ADJUST LMU looks at the till (R51 to R54). No arming awaits the gate. -/
def Obligations.CountDeclareBelievesTheDeclaration : Prop :=
  ∀ (s : State) (tag : Nat) (st : Station) (t : Till) (o : SignOn) (pairs : List (Nat × Nat)) (declared : Counts)
    (c : CountRecord), s.listening = true → s.presence st = .signedOn o → (s.till t).holder = some st →
    (s.till t).state = .counting → (s.till t).count = some c → pairs.length = 10 →
    (∀ d : Denom, (d.val, declared[d]) ∈ pairs) → (∀ d : Denom, declared[d] ≤ 65535) → 1 ≤ s.free →
    s.dju.nextSeq ≤ 4294967295 → NoGate s →
    ∃ u, exec (.countDeclare ⟨tag, some ⟨stationNo st, t.val, pairs⟩⟩) s = .next u ∧
      u.till t = { s.till t with
        state := .balanced, count := none, unbalanced := false, counts := (u.till t).counts, diff := (u.till t).diff } ∧
      OnlyTill t s u ∧ OnlyMonitor t s u ∧ KeepsLine s u ∧ KeepsLink s u ∧
      (declared = c.book → u.dju = s.dju ∧ (u.till t).counts = (s.till t).counts ∧ (u.till t).diff = none ∧ u.hlc = s.hlc ∧
        u.lmu = (s.applyPending t).lmu ∧ HoldShown st s u ∧
        u.sent = [replyTo 0x15 tag .ok [.int 8 0, .num 1 0, .num 4 0, valueItem (u.tillValue t)]]) ∧
      (declared ≠ c.book → ∃ r : DiffRecord, (u.till t).counts = declared ∧ (u.till t).diff = some r ∧
        (∀ d : Denom, r.diffs[d] = Int.ofNat declared[d] - Int.ofNat c.book[d]) ∧
        r.total = differenceTotal s.faces r.diffs ∧ r.seq = s.dju.nextSeq ∧ r.day = s.dayNumber ∧
        JournalGrows {
          seq := s.dju.nextSeq, day := s.dayNumber, time := s.now, station := st, kind := .adjust, till := t,
          till2 := none, account := none, breakdown := some (differencePairs r.diffs), amount := some r.total,
          ref := none, status := .live, passbook := .none, transferId := none } s u ∧
        LooksAt t s.dju.nextSeq (((beforeLook s u).syncHold st).applyPending t) u ∧
        u.sent = [replyTo 0x15 tag .ok [.int 8 r.total, .num 1 1, .num 4 s.dju.nextSeq, valueItem (u.tillValue t)]]) ∧
      u = { s with sent := u.sent, tlu := u.tlu, dju := u.dju, lmu := u.lmu, slc := u.slc, hlc := u.hlc }

/-- R41: an offer takes the cash out of the source, journals a TRANSFER_OUT and puts a record of 300 seconds, with the next id
(R40), at the end of the table; OFFER_WAITING follows (R27), and then LMU looks at the source (R51 to R54). -/
def Obligations.TransferOfferMovesCashIntoTransit : Prop :=
  ∀ (s : State) (tag : Nat) (st : Station) (src dst : Till) (o : SignOn) (pairs : List (Nat × Nat))
    (b : List (Denom × Nat)), s.listening = true → s.dayState ≠ .unset → s.presence st = .signedOn o →
    o.held = some src → (s.till src).state = .opened → dst ≠ src → (s.till dst).state ≠ .counting →
    s.tlu.transfers.length < 8 → breakdown? pairs = some b → (∀ d : Denom, countOf b d ≤ (s.till src).counts[d]) →
    (s.monitor src).enforces .low = false → 321 ≤ s.free → s.dju.nextSeq ≤ 4294967295 →
    ∃ (u : State) (id : Nat), exec (.transferOffer ⟨tag, some ⟨stationNo st, dst.val, pairs⟩⟩) s = .next u ∧
      1 ≤ id ∧ id ≤ 255 ∧ (∀ x ∈ s.tlu.transfers, x.id ≠ id) ∧
      NextIdAfter s.tlu.lastTransfer (s.tlu.transfers.map (·.id)) id ∧
      u.tlu = { s.tlu with tills := u.tlu.tills, lastTransfer := id, transfers := s.tlu.transfers ++ [{
        id := id, source := src, destination := dst, breakdown := b, amount := s.amount b, station := st,
        offeredTo := (s.till dst).holder, outSeq := s.dju.nextSeq, remaining := 300, waiting := false }] } ∧
      (∀ d : Denom, (u.till src).counts[d] = (s.till src).counts[d] - countOf b d) ∧
      u.till src = { s.till src with counts := (u.till src).counts } ∧ (∀ x : Till, x ≠ src → u.till x = s.till x) ∧
      JournalGrows {
        seq := s.dju.nextSeq, day := s.dayNumber, time := s.now, station := st, kind := .transferOut, till := src,
        till2 := some dst, account := none, breakdown := some (signedPairs b), amount := some (s.amount b), ref := none,
        status := .live, passbook := .none, transferId := some id } s u ∧
      OnlyMonitor src s u ∧ LooksAt src s.dju.nextSeq (beforeLook s u).syncOffers u ∧ KeepsLine s u ∧ KeepsLink s u ∧
      u = { s with
        sent := [replyTo 0x17 tag .ok [.num 1 id, .num 4 s.dju.nextSeq, valueItem (u.tillValue src)]]
        tlu := u.tlu, dju := u.dju, lmu := u.lmu, slc := u.slc, hlc := u.hlc }

/-- R42, R43: an acceptance brings the cash into the destination and a rejection brings it back to the source; the record
leaves the table and the entry refers to the TRANSFER_OUT; OFFER_WAITING follows (R27), and then LMU looks at the till (R51 to
R54). No arming awaits the gate. -/
def Obligations.TransfersAreAcceptedOrRejected : Prop :=
  ∀ (s : State) (tag : Nat) (st : Station) (o : SignOn) (x : Transfer) (accept : Bool) (t : Till), s.listening = true →
    s.presence st = .signedOn o → s.transfer? x.id = some x → 1 ≤ x.id → x.id ≤ 255 → x.waiting = false →
    o.held = some x.destination → t = (if accept then x.destination else x.source) →
    (accept = true → (s.till x.destination).state = .opened ∧ (s.monitor x.destination).enforces .high = false) →
    (∀ d : Denom, (s.till t).counts[d] + countOf x.breakdown d ≤ 65535) → 1 ≤ s.free → s.dju.nextSeq ≤ 4294967295 →
    NoGate s →
    ∃ u, exec (if accept then .transferAccept ⟨tag, some ⟨stationNo st, x.id⟩⟩
        else .transferReject ⟨tag, some ⟨stationNo st, x.id⟩⟩) s = .next u ∧
      (∀ d : Denom, (u.till t).counts[d] = (s.till t).counts[d] + countOf x.breakdown d) ∧
      u.till t = { s.till t with counts := (u.till t).counts } ∧ (∀ y : Till, y ≠ t → u.till y = s.till y) ∧
      u.tlu = { s.tlu with tills := u.tlu.tills, transfers := s.tlu.transfers.filter (fun y => y.id != x.id) } ∧
      JournalGrows {
        seq := s.dju.nextSeq, day := s.dayNumber, time := s.now, station := st,
        kind := if accept then .transferIn else .transferBack, till := t,
        till2 := some (if accept then x.source else x.destination), account := none,
        breakdown := some (signedPairs x.breakdown), amount := some x.amount, ref := some x.outSeq, status := .live,
        passbook := .none, transferId := some x.id } s u ∧
      OnlyMonitor t s u ∧ LooksAt t s.dju.nextSeq (beforeLook s u).syncOffers u ∧ KeepsLine s u ∧ KeepsLink s u ∧
      u = { s with
        sent := [replyTo (if accept then 0x18 else 0x19) tag .ok [.num 4 s.dju.nextSeq, valueItem (u.tillValue t)]]
        tlu := u.tlu, dju := u.dju, lmu := u.lmu, slc := u.slc, hlc := u.hlc }

/-- R44: the run-out of a transfer's timer, and the retry of a waiting return, give the cash back to the source with a
TRANSFER_BACK charged to the offering station, LMU's look at the source (R51 to R54) and a TRANSFER_EXPIRED notice; where the
source or the journal has no room, the record stays with its return waiting. That the run-out acts alone, with one second left,
is the model's choice (log 3). No arming awaits the gate. -/
def Obligations.ExpiredTransfersReturnOrWait : Prop :=
  ∀ (s : State) (x : Transfer) (c : Instr), s.live = true → s.transfer? x.id = some x →
    (c = .transferExpiry x.id ∧ x.remaining = 1 ∨ c = .transferReturnRetry x.id ∧ x.waiting = true) → NoGate s →
    ∃ u, exec c s = .next u ∧
      (s.canReturn x = true →
        (∀ d : Denom, (u.till x.source).counts[d] = (s.till x.source).counts[d] + countOf x.breakdown d) ∧
        u.till x.source = { s.till x.source with counts := (u.till x.source).counts } ∧
        (∀ y : Till, y ≠ x.source → u.till y = s.till y) ∧
        u.tlu = { s.tlu with tills := u.tlu.tills, transfers := s.tlu.transfers.filter (fun y => y.id != x.id) } ∧
        JournalGrows {
          seq := s.dju.nextSeq, day := s.dayNumber, time := s.now, station := x.station, kind := .transferBack,
          till := x.source, till2 := some x.destination, account := none, breakdown := some (signedPairs x.breakdown),
          amount := some x.amount, ref := some x.outSeq, status := .live, passbook := .none,
          transferId := some x.id } s u ∧
        (s.hlc.notices.length < 30 → u.hlc.notices.getLast? = some
          ⟨s.now, .transferExpired x.id x.source x.destination x.amount s.dju.nextSeq⟩) ∧
        OnlyMonitor x.source s u ∧ u = (((beforeLook s u).syncOffers.evaluate x.source s.dju.nextSeq).raise
          (.transferExpired x.id x.source x.destination x.amount s.dju.nextSeq)) ∧ KeepsLine s u ∧ KeepsLink s u ∧
        u = { s with sent := [], tlu := u.tlu, dju := u.dju, lmu := u.lmu, slc := u.slc, hlc := u.hlc }) ∧
      (s.canReturn x = false → u = { s with sent := [], tlu := { s.tlu with transfers := s.tlu.transfers.map fun y =>
        if y.id = x.id then { y with remaining := 0, waiting := true } else y } })

/-! ### Limits (R52, R53, R57 to R60) -/

/-- R57, R58: LIMIT SET on a till that is not COUNTING takes effect at once, with the streak started again and WATCHING
with F = 0 turned OFF; on a COUNTING till the settings wait. -/
def Obligations.LimitSetTakesEffectOrWaits : Prop :=
  ∀ (s : State) (tag lower upper filter : Nat) (t : Till) (enforce : Bool) (m : Monitor), s.listening = true →
    lower < upper → upper ≤ 65535000000 → filter ≤ 15 → m = s.monitor t →
    ∃ u, exec (.limitSet ⟨tag, some ⟨t.val, lower, upper, filter, enforce⟩⟩) s = .next u ∧ OnlyMonitor t s u ∧
      ((s.till t).state = .counting → u.monitor t = { m with
          pending := some { lower := lower, upper := upper, filter := filter, enforce := enforce } } ∧
        u.sent = [replyTo 0x20 tag .ok [.num 1 2, .num 1 m.state.code]]) ∧
      ((s.till t).state ≠ .counting → u.monitor t = { m with
          limits := { lower := lower, upper := upper, filter := filter, enforce := enforce }, streak := 0,
          streakDir := none, live := false,
          state := if m.state = .watching ∧ filter = 0 then .off else m.state } ∧
        u.sent = [replyTo 0x20 tag .ok [.num 1 1, .num 1 (u.monitor t).state.code]]) ∧
      u = { s with sent := u.sent, lmu := u.lmu }

/-- R60: LIMIT ARM starts the watch of an OFF monitor with F of at least 1, leaves a WATCHING one alone, and refuses a
TRIPPED one, one with F = 0 and a till out of range. That its WRONG_STATE carries the monitor state, as R60 says, where R202 says
that a refusal carries nothing, is the model's reading (log 25). -/
def Obligations.LimitArmStartsTheWatch : Prop :=
  ∀ (s : State) (tag : Nat), s.listening = true →
    (∀ n : Nat, 13 ≤ n → exec (.limitArm ⟨tag, some ⟨n⟩⟩) s = .next { s with sent := [replyTo 0x22 tag .badField []] }) ∧
    ∀ (t : Till) (m : Monitor), m = s.monitor t →
      (m.state = .off → 1 ≤ m.limits.filter → ∃ u, exec (.limitArm ⟨tag, some ⟨t.val⟩⟩) s = .next u ∧
        u.monitor t = { m with state := .watching, streak := 0, streakDir := none, live := false } ∧ OnlyMonitor t s u ∧
        u = { s with sent := [replyTo 0x22 tag .ok [.num 1 2]], lmu := u.lmu }) ∧
      (m.state = .off → m.limits.filter = 0 →
        exec (.limitArm ⟨tag, some ⟨t.val⟩⟩) s = .next { s with sent := [replyTo 0x22 tag .wrongState [.num 1 1]] }) ∧
      (m.state = .watching →
        exec (.limitArm ⟨tag, some ⟨t.val⟩⟩) s = .next { s with sent := [replyTo 0x22 tag .ok [.num 1 2]] }) ∧
      ∀ d : Direction, m.state = .tripped d →
        exec (.limitArm ⟨tag, some ⟨t.val⟩⟩) s = .next { s with sent := [replyTo 0x22 tag .wrongState [.num 1 3]] }

/-- R59: LIMIT CLEAR takes a TRIPPED monitor OFF with its settings kept and the holder's limit indicators clear; in OFF and
WATCHING it is refused. The holder's status slot follows its indicators (R95, R96). -/
def Obligations.LimitClearEndsTheTrip : Prop :=
  ∀ (s : State) (tag : Nat), s.listening = true →
    (∀ n : Nat, 13 ≤ n → exec (.limitClear ⟨tag, some ⟨n⟩⟩) s = .next { s with sent := [replyTo 0x21 tag .badField []] }) ∧
    ∀ (t : Till) (m : Monitor), m = s.monitor t →
      (∀ d : Direction, m.state = .tripped d → ∃ u, exec (.limitClear ⟨tag, some ⟨t.val⟩⟩) s = .next u ∧
        u.monitor t = { m with state := .off, streak := 0, streakDir := none, live := false } ∧ OnlyMonitor t s u ∧
        (u.monitor t).enforces .high = false ∧ (u.monitor t).enforces .low = false ∧
        (∀ (st : Station), (s.till t).holder = some st → HoldShown st s u ∧ (s.held st = some t →
          hasBit (u.line st).indicators .limitHigh = false ∧ hasBit (u.line st).indicators .limitLow = false)) ∧
        ((s.till t).holder = none → u.slc = s.slc) ∧ KeepsLine s u ∧
        u = { s with sent := [replyTo 0x21 tag .ok [valueItem (s.tillValue t)]], lmu := u.lmu, slc := u.slc }) ∧
      ((m.state = .off ∨ m.state = .watching) →
        exec (.limitClear ⟨tag, some ⟨t.val⟩⟩) s = .next { s with sent := [replyTo 0x21 tag .wrongState []] })

/-- R52, R53: a WATCHING till found out of range in one direction for the F-th time running trips, with its notice and its
holder's limit indicator (R54); below F the streak goes on, and a value within the limits ends it. A trip's notice at a full queue is discarded (R191), and
the holder's status slot follows its indicators (R95, R96). R51: a till that is not
WATCHING, and one without a value, is left alone. -/
def Obligations.StreaksTripTheMonitor : Prop :=
  (∀ (s : State) (t : Till) (q : Nat), (s.monitor t).state ≠ .watching ∨ s.tillValue t = none → s.evaluate t q = s) ∧
  ∀ (s : State) (t : Till) (q v : Nat) (m : Monitor), m = s.monitor t → m.state = .watching → s.tillValue t = some v →
    OnlyMonitor t s (s.evaluate t q) ∧ KeepsLine s (s.evaluate t q) ∧ KeepsLink s (s.evaluate t q) ∧
    s.evaluate t q = { s with
      lmu := (s.evaluate t q).lmu, slc := (s.evaluate t q).slc, hlc := (s.evaluate t q).hlc } ∧
    (m.limits.lower ≤ v → v ≤ m.limits.upper →
      (s.evaluate t q).monitor t = { m with streak := 0, streakDir := none, live := false } ∧
      (s.evaluate t q).hlc = s.hlc ∧ (s.evaluate t q).slc = s.slc) ∧
    ∀ d : Direction, (d = .high ∧ m.limits.upper < v ∨ d = .low ∧ v < m.limits.lower ∧ v ≤ m.limits.upper) →
      ∀ n : Nat, n = (if m.streakDir = some d then m.streak + 1 else 1) →
        (n ≠ m.limits.filter →
          (s.evaluate t q).monitor t = { m with streak := n, streakDir := some d, live := true } ∧
          (s.evaluate t q).hlc = s.hlc ∧ (s.evaluate t q).slc = s.slc) ∧
        (n = m.limits.filter →
          (s.evaluate t q).monitor t = { m with streak := n, streakDir := some d, live := true, state := .tripped d } ∧
          (∀ st : Station, (s.till t).holder = some st → HoldShown st s (s.evaluate t q) ∧ (s.held st = some t →
            hasBit ((s.evaluate t q).line st).indicators .limitHigh = decide (d = .high) ∧
            hasBit ((s.evaluate t q).line st).indicators .limitLow = decide (d = .low))) ∧
          ((s.till t).holder = none → (s.evaluate t q).slc = s.slc) ∧
          RaisesNotice ⟨s.now, .limitTrip t d v m.limits.lower m.limits.upper m.limits.filter (s.till t).holder q⟩ s
            (s.evaluate t q))

/-! ### Stations and the screen line (R68 to R71, R77, R83 to R100) -/

/-- R68: SIGN ON, its checks in their order, and the sign-on of a PRESENT station that no line test runs on; the setup and the
queues stand. -/
def Obligations.SignOnPutsAStationToWork : Prop :=
  ∀ (s : State) (tag n : Nat) (operator : Text), s.listening = true →
    (∀ m : Nat, m < 1 ∨ 12 < m → Refuses (.signOn ⟨tag, some ⟨m, operator, n⟩⟩) 0x28 tag .badField s) ∧
    ∀ (st : Station) (fits : Prop) (c : Instr), c = .signOn ⟨tag, some ⟨stationNo st, operator, n⟩⟩ →
      (fits ↔ 1 ≤ operator.length ∧ operator.length ≤ 8 ∧ (∀ b ∈ operator, inCharset (s.station st).setup.charset b = true) ∧
        (n = 1 ∨ n = 2)) →
      (¬ fits → Refuses c 0x28 tag .badField s) ∧
      (fits → s.presence st = .vacant → Refuses c 0x28 tag .notPresent s) ∧
      (fits → (s.signOn? st).isSome = true → Refuses c 0x28 tag .wrongState s) ∧
      (fits → s.presence st = .present → (s.line st).test.running = true → Refuses c 0x28 tag .wrongState s) ∧
      (fits → s.presence st = .present → (s.line st).test.running = false →
        ∀ role : Role, (n = 1 ∧ role = .teller ∨ n = 2 ∧ role = .supervisor) →
        ∃ u, exec c s = .next u ∧
          u.presence st = .signedOn { operator := operator, role := role, time := s.now, held := none } ∧
          OnlyPresence st s u ∧
          (u.line st).indicators = (if s.dayState = .armed then 0x80#8 else 0#8) ∧
          (u.line st).slot = some { indicators := (u.line st).indicators, setup := (s.station st).setup } ∧
          (∀ x : Station, x ≠ st → u.line x = s.line x) ∧ MarksFrame st s u ∧ KeepsLine s u ∧
          u = { s with sent := [replyTo 0x28 tag .ok [.num 4 s.now]], stu := u.stu, slc := u.slc })

/-- R70, R71: SIGN OFF ends a sign-on under which no till is held, no unfinished job stands and no offer awaits the
station: a SIGNED_ON station is PRESENT and a LOST one VACANT, with every indicator clear. -/
def Obligations.SignOffEndsTheSignOn : Prop :=
  ∀ (s : State) (tag : Nat) (st : Station) (o : SignOn), s.listening = true → s.signOn? st = some o → o.held = none →
    (∀ x ∈ s.tlu.transfers, x.offeredTo ≠ some st) →
    (∀ j ∈ s.pjq.jobs, j.station = st → j.state = .done ∨ j.state = .failed ∨ j.state = .cancelled) →
    ∃ u, exec (.signOff ⟨tag, some ⟨stationNo st⟩⟩) s = .next u ∧
      u.presence st = (if s.presence st = .signedOn o then .present else .vacant) ∧ OnlyPresence st s u ∧
      (u.line st).indicators = 0#8 ∧
      (u.line st).slot = some { indicators := 0#8, setup := (s.station st).setup } ∧
      (∀ x : Station, x ≠ st → u.line x = s.line x) ∧ MarksFrame st s u ∧ KeepsLine s u ∧
      u = { s with sent := [replyTo 0x29 tag .ok []], stu := u.stu, slc := u.slc }

/-- R77, R95: STATION SETUP takes every field while no operator is signed on, and the status mask alone while one is; a
setup that changes fills the status slot. That one which changes nothing leaves the slot alone is the model's choice
(log 21). -/
def Obligations.StationSetupKeepsWhatASignOnProtects : Prop :=
  ∀ (s : State) (tag rows columns charset mask : Nat) (st : Station) (old new : Setup) (k : Nat), s.listening = true →
    16 ≤ rows → rows ≤ 25 → (columns = 40 ∨ columns = 80) → charset ≤ 3 → mask < 256 → old = (s.station st).setup →
    (s.signOn? st = none ∧ k = 1 ∧ new = { rows := rows, columns := columns, charset := charset, mask := mask } ∨
      s.signOn? st ≠ none ∧ k = 2 ∧ new = { old with mask := mask }) →
    ∃ u, exec (.stationSetup ⟨tag, some ⟨stationNo st, rows, columns, charset, mask⟩⟩) s = .next u ∧
      (u.station st).setup = new ∧ (∀ x : Station, x ≠ st → u.station x = s.station x) ∧
      u.presence st = s.presence st ∧
      (new ≠ old → (u.line st).slot = some { indicators := (s.line st).indicators, setup := new } ∧ MarksFrame st s u) ∧
      (new = old → u.slc = s.slc) ∧ (∀ x : Station, (u.line x).indicators = (s.line x).indicators) ∧
      (∀ x : Station, x ≠ st → u.line x = s.line x) ∧ KeepsLine s u ∧
      u = { s with stu := u.stu, slc := u.slc, sent := [replyTo 0x2A tag .ok
        [.num 1 k, .num 1 new.rows, .num 1 k, .num 1 new.columns, .num 1 k, .num 1 new.charset, .num 1 1, .num 1 mask]] }

/-- R92: DISPLAY puts an update at the end of the output queue of a station counted present. -/
def Obligations.DisplayQueuesAnUpdate : Prop :=
  ∀ (s : State) (tag row column attr : Nat) (st : Station) (text : Text) (setup : Setup), s.listening = true →
    (s.presence st = .present ∨ ∃ o, s.presence st = .signedOn o) → setup = (s.station st).setup → attr ≤ 2 →
    1 ≤ text.length → text.length ≤ 80 → 1 ≤ row → row ≤ setup.rows → 1 ≤ column → column ≤ setup.columns →
    column + text.length ≤ setup.columns + 1 → (∀ b ∈ text, inCharset setup.charset b = true) →
    (s.line st).output.length < 8 →
    ∃ u, exec (.display ⟨tag, some ⟨stationNo st, row, column, attr, text⟩⟩) s = .next u ∧
      u.line st = { s.line st with
        output := (s.line st).output ++ [{ row := row, column := column, attr := attr, text := text }] } ∧
      (∀ x : Station, x ≠ st → u.line x = s.line x) ∧
      u = { s with
        sent := [replyTo 0x30 tag .ok [.num 1 ((s.line st).output.length + 1)]]
        slc := { s.slc with lines := u.slc.lines } }

/-- R94: READ INPUT takes the oldest entries of a station, as many as the maximum allows and as fit whole. That a list has a
count beside the number returned, and so the room for the entries, is the model's choice (R202, log 15). -/
def Obligations.ReadInputTakesTheOldestEntries : Prop :=
  ∀ (s : State) (tag maximum : Nat) (st : Station) (queue : List InputEntry), s.listening = true → 1 ≤ maximum →
    maximum ≤ 16 → queue = (s.line st).input →
    ∃ (u : State) (n : Nat), exec (.readInput ⟨tag, some ⟨stationNo st, maximum⟩⟩) s = .next u ∧
      n ≤ maximum ∧ n ≤ queue.length ∧ ((queue.take n).map InputEntry.size).sum + 3 ≤ 511 ∧
      (n < maximum → n < queue.length → 511 < ((queue.take (n + 1)).map InputEntry.size).sum + 3) ∧
      u.line st = { s.line st with input := queue.drop n } ∧ (∀ x : Station, x ≠ st → u.line x = s.line x) ∧
      u = { s with
        slc := { s.slc with lines := u.slc.lines }
        sent := [replyTo 0x31 tag .ok ([.num 1 n] ++ ((queue.take n).map InputEntry.items).flatten ++
          [.num 1 n, flag (decide (n < queue.length))])] }

/-- R97, R98, R99: LINE TEST START on a PRESENT station of the scan range begins the test afresh with the generator's bits
all set, LINE TEST STOP ends it with its results kept and reported, and between them each TEST frame's echo, reply without an
echo or miss is counted. The one byte of the errored count is the model's choice (log 15). -/
def Obligations.LineTestsStartAfreshCountAndStop : Prop :=
  ∀ (s : State) (tag : Nat) (st : Station) (l : LineRec), s.listening = true → l = s.line st →
    (InScan s.slc.first s.slc.last st → s.presence st = .present → l.test.running = false →
      ∃ u, exec (.lineTestStart ⟨tag, some ⟨stationNo st⟩⟩) s = .next u ∧
        u.line st = { l with misses := 0, test := ⟨true, 0, 0, false, false, 0x7FFF#15⟩ } ∧
        (∀ x : Station, x ≠ st → u.line x = s.line x) ∧
        u = { s with
          sent := [replyTo 0x32 tag .ok []], slc := { s.slc with lines := u.slc.lines, slot := u.slc.slot } }) ∧
    (l.test.running = true →
      ∃ u, exec (.lineTestStop ⟨tag, some ⟨stationNo st⟩⟩) s = .next u ∧
        u.line st = { l with misses := 0, test := { l.test with running := false } } ∧
        (∀ x : Station, x ≠ st → u.line x = s.line x) ∧
        u = { s with
          slc := { s.slc with lines := u.slc.lines, slot := u.slc.slot }
          sent := [replyTo 0x33 tag .ok
            [.num 2 l.test.frames, .num 1 l.test.errored, flag l.test.live, flag l.test.sticky]] }) ∧
    ∀ (sl : Slot) (c : Instr) (chars : Text) (errs misses : Nat), s.slc.slot = some sl → sl.station = st →
      sl.body = .test chars → sl.stale = false → sl.dropped = false → s.countedPresent st = true → chars.length = 16 →
      (c = .slotReplyTimeout ∧ errs = 16 ∧ misses = l.misses ∨
        (∃ r : ScreenReply, c = .screenReply r ∧ r.station = stationNo st ∧ (∀ back, r.content ≠ .echo back) ∧
          misses = 0 ∧ errs = 16) ∨
        ∃ (r : ScreenReply) (back : Text), c = .screenReply r ∧ r.station = stationNo st ∧ r.content = .echo back ∧
          misses = 0 ∧ errs = if back.length = 16
            then ((List.range 16).filter fun i => back[i]? ≠ chars[i]?).length else 16) →
      ∃ u, exec c s = .next u ∧ (u.line st).misses = misses ∧ (u.line st).test.running = l.test.running ∧
        (u.line st).test.frames = min 65535 (l.test.frames + 1) ∧
        (u.line st).test.errored = min 255 (l.test.errored + errs) ∧ (u.line st).test.live = decide (0 < errs) ∧
        (u.line st).test.sticky = (l.test.sticky || decide (0 < errs)) ∧ (u.line st).input = l.input ∧
        (u.line st).output = l.output ∧ u = { s with sent := u.sent, slc := u.slc }

/-- R100: SCAN SET sets the range, begins a new round after the slot in progress, and takes every PRESENT station outside it
as absent; no signed-on station and no running test lies outside. The reply in the slot in progress of a station outside the
range is not taken; that the slot of a station which a second SCAN SET takes in again stays dropped is the model's choice
(log 26). -/
def Obligations.ScanSetSetsTheRange : Prop :=
  (∀ (s : State) (sl : Slot) (r : ScreenReply), s.live = true → s.slc.slot = some sl → sl.dropped = true →
    exec (.screenReply r) s = .next { s with sent := [] }) ∧
  ∀ (s : State) (tag : Nat) (first last : Station), s.listening = true →
    (∀ x : Station, ¬ InScan first last x → s.signOn? x = none ∧ (s.line x).test.running = false) →
    ∃ u, exec (.scanSet ⟨tag, some ⟨stationNo first, stationNo last⟩⟩) s = .next u ∧ u.slc.first = first ∧
      u.slc.last = last ∧ u.slc.walk = [] ∧ u.slc.round = s.slc.round ∧
      (∀ x : Station, InScan first last x → u.presence x = s.presence x ∧ u.line x = s.line x) ∧
      (∀ x : Station, ¬ InScan first last x → u.presence x = .vacant ∧ (s.presence x = .present →
        u.line x = { s.line x with
          output := [], input := [], slot := none, answer := .none, lastBit := none, misses := 0 })) ∧
      (s.slc.slot = none → u.slc.slot = none) ∧
      (∀ sl : Slot, s.slc.slot = some sl → (InScan first last sl.station → u.slc.slot = some sl) ∧
        (¬ InScan first last sl.station → u.slc.slot = some { sl with dropped := true })) ∧
      (∀ x : Station, (u.station x).setup = (s.station x).setup) ∧ KeepsLink s u ∧
      (∃ gone : List Station, (∀ x : Station, x ∈ gone ↔ ¬ InScan first last x ∧ s.presence x = .present) ∧
        gone.Pairwise (· < ·) ∧ u.sent = [replyTo 0x34 tag .ok ([.num 1 (stationNo first), .num 1 (stationNo last),
          .num 1 gone.length] ++ gone.map fun x => .num 1 (stationNo x))] ∧
        (s.hlc.notices.length + gone.length ≤ 32 →
          u.hlc.notices = s.hlc.notices ++ gone.map fun x => ⟨s.now, .stationAbsent x⟩)) ∧
      u = { s with sent := u.sent, stu := u.stu, slc := u.slc, hlc := u.hlc }

/-- R66, R89: the third miss running of a station counted present takes its screen as absent with its queues, status slot, input
answer and last stored entry bit gone and its indicators kept, an earlier one is counted, and a miss of a station counted absent
changes nothing; the next slot begins (R83 to R87). A dropped slot runs out without a count (R100, log 26); so does a slot in which
a test has started, and a TEST frame whose test has ended is an ordinary one, the model's choice (log 17). The slot is no TEST
frame's of the test that runs. -/
def Obligations.MissedRepliesAreCountedToAbsence : Prop :=
  (∀ s : State, s.slc.slot = none → Discards .slotReplyTimeout s) ∧
  ∀ (s : State) (sl : Slot) (st : Station) (counts : Prop), s.live = true → s.slc.slot = some sl → st = sl.station →
    (counts ↔ sl.dropped = false ∧ s.countedPresent st = true ∧ (s.line st).test.running = false) →
    (sl.dropped = false → s.countedPresent st = true → sl.stale = false → ∀ chars, sl.body ≠ .test chars) →
    ∃ u v : State, exec .slotReplyTimeout s = .next u ∧ SlotBegins v u ∧
      (∀ x : Station, (v.station x).setup = (s.station x).setup ∧
        (x ≠ st → v.presence x = s.presence x ∧ v.line x = s.line x)) ∧
      (counts → (s.line st).misses < 2 → v.presence st = s.presence st ∧
        v.line st = { s.line st with misses := (s.line st).misses + 1 } ∧ v.hlc = s.hlc) ∧
      (counts → 2 ≤ (s.line st).misses →
        v.presence st = (match s.presence st with | .signedOn o => .lost o 600 | _ => .vacant) ∧
        v.line st = { s.line st with
          output := [], input := [], slot := none, answer := .none, lastBit := none, misses := 0 } ∧
        RaisesNotice ⟨s.now, match s.presence st with
          | .signedOn o => .stationLost st o.operator o.held 600 false | _ => .stationAbsent st⟩ s v) ∧
      (¬ counts → v = { s with sent := [] }) ∧
      v = { s with sent := [], stu := v.stu, slc := { s.slc with lines := v.slc.lines }, hlc := v.hlc }

/-- R87, R88, R92, R93, R96: a reply in its slot from a station counted present clears the miss counter, takes an update
that is acknowledged off its queue, settles a status slot not filled again, and stores an entry whose bit is new; the next
slot begins (R83 to R87). R85: a reply that names another station is discarded, and so is one while no slot is open (log 12). A
reply to a TEST frame whose test has ended clears the miss counter alone, and one to an ordinary frame during a test stores no
entry, the model's choice (log 17). -/
def Obligations.RepliesSettleTheirSlots : Prop :=
  (∀ (s : State) (r : ScreenReply), (∀ sl : Slot, s.slc.slot = some sl → r.station ≠ stationNo sl.station) →
    Discards (.screenReply r) s) ∧
  ∀ (s : State) (sl : Slot) (st : Station) (r : ScreenReply) (l : LineRec), s.live = true → s.slc.slot = some sl →
    st = sl.station → r.station = stationNo st → sl.dropped = false → l = s.line st → s.countedPresent st = true →
    (sl.stale = false → ∀ chars, sl.body ≠ .test chars) →
    ∃ u w v : State, exec (.screenReply r) s = .next u ∧ SlotBegins v u ∧
      (∀ x : Station, x ≠ st → w.line x = s.line x) ∧
      w.line st = { l with
        misses := 0
        output := match sl.body with | .update _ => if r.ack then l.output.drop 1 else l.output | _ => l.output
        slot := match sl.body with | .status _ => if sl.refilled then l.slot else none | _ => l.slot } ∧
      w = { s with sent := [], slc := { s.slc with lines := w.slc.lines } } ∧
      (∀ chars, sl.body = .test chars → v = w) ∧
      ((∀ chars, sl.body ≠ .test chars) → TakesContent r.content st w v)

/-- R65, R67, R90: a reply in its slot from a station counted absent brings its screen back: a VACANT station is PRESENT, a
LOST one SIGNED_ON again with its setup and till, each with its notice and a full status set in its slot; the entry that the reply
carries is then taken as from a station counted present (R93), and the next slot begins (R83 to R87). -/
def Obligations.RepliesBringScreensBack : Prop :=
  ∀ (s : State) (sl : Slot) (st : Station) (r : ScreenReply), s.live = true → s.slc.slot = some sl → st = sl.station →
    r.station = stationNo st → sl.dropped = false → s.countedPresent st = false →
    ∃ u w v : State, exec (.screenReply r) s = .next u ∧ SlotBegins v u ∧ TakesContent r.content st w v ∧
      OnlyPresence st s w ∧
      w.presence st = (match s.presence st with | .lost o _ => .signedOn o | _ => .present) ∧
      w.line st = { s.line st with
        misses := 0, answer := .none, lastBit := none
        slot := some { indicators := (s.line st).indicators, setup := (s.station st).setup } } ∧
      (∀ x : Station, x ≠ st → w.line x = s.line x) ∧
      RaisesNotice ⟨s.now, match s.presence st with
        | .lost o g => .stationReturned st o.operator o.held (600 - g) | _ => .stationPresent st⟩ s w ∧
      w = { s with
        sent := [], stu := w.stu, slc := { s.slc with lines := w.slc.lines, slot := w.slc.slot }, hlc := w.hlc }

/-! ### Printers (R107 to R119) -/

/-- R108, R109, R118: ASSIGN PRINTER gives an unbound printer its owner; PRINTER HOLD and PRINTER FREE set and clear the
hold flag of the printer named, or by 255 of all four, and report the held set; after an assignment and after a free a pick
pass is made, in which each printer in turn takes the oldest QUEUED job that it may serve (R118, R119, R130). -/
def Obligations.PrintersAreAssignedHeldAndFreed : Prop :=
  ∀ (s : State) (tag : Nat) (p : Printer) (owner : Owner) (n : Nat), s.listening = true → (n = 255 ∨ n = p.val) →
    ((s.printer p).bound = none → ∃ u, exec (.assignPrinter ⟨tag, some ⟨p.val, owner.code⟩⟩) s = .next u ∧
      (∀ x : Printer, (u.printer x).owner = (if x = p then owner else (s.printer x).owner) ∧
        (u.printer x).hold = (s.printer x).hold) ∧
      NothingToPick u ∧ u.sent.getLast? = some (replyTo 0x40 tag .ok [.num 1 owner.code]) ∧ KeepsLine s u ∧
      (∃ w, PickPassed { s with sent := [], prc := s.prc.set p { s.printer p with owner := owner } } w ∧
        u = { w with sent := u.sent } ∧ u.sent.dropLast = w.sent) ∧
      u = { s with sent := u.sent, prc := u.prc, pjq := u.pjq, slc := u.slc }) ∧
    (∃ u, exec (.printerHold ⟨tag, some ⟨n⟩⟩) s = .next u ∧
      (∀ x : Printer, u.printer x = { s.printer x with hold := if n = 255 ∨ x = p then true else (s.printer x).hold }) ∧
      u = { s with prc := u.prc, sent := [replyTo 0x41 tag .ok
        [.num 1 ((List.finRange 4).map fun x => if (u.printer x).hold then 2 ^ x.val else 0).sum]] }) ∧
    ∃ u v w : State, exec (.printerFree ⟨tag, some ⟨n⟩⟩) s = .next u ∧
      (∀ x : Printer, v.printer x = { s.printer x with hold := if n = 255 ∨ x = p then false else (s.printer x).hold }) ∧
      v = { s with sent := [], prc := v.prc } ∧ PickPassed v w ∧ u = { w with sent := u.sent } ∧ u.sent.dropLast = w.sent ∧
      (∀ x : Printer, (u.printer x).owner = (s.printer x).owner ∧
        (u.printer x).hold = if n = 255 ∨ x = p then false else (s.printer x).hold) ∧
      NothingToPick u ∧ u.sent.getLast? = some (replyTo 0x42 tag .ok
        [.num 1 ((List.finRange 4).map fun x => if (u.printer x).hold then 2 ^ x.val else 0).sum]) ∧ KeepsLine s u ∧
      u = { s with sent := u.sent, prc := u.prc, pjq := u.pjq, slc := u.slc }

/-- R111, R112, R115, R116: BOOK_OUT, PROBE_REPLY and a message of an unlisted type are signs of life of a working printer
and nothing more; READY answers a CLEAR, or brings an OFFLINE printer online, and one that comes unasked is a sign of life of
an IDLE printer and ends the job of a busy one, PRINTER_LOST, after its PRINTER_OFFLINE notice; FAULT takes a working printer,
its binding agreeing with its job's, out of service and fails its job (R140); in OFFLINE and FAULT, but for that READY, they
are discarded. A printer that comes online makes a pick pass (R118). -/
def Obligations.PrinterMessagesAreTaken : Prop :=
  ∀ (s : State) (p : Printer) (r : PrinterRec), s.live = true → r = s.printer p →
    (∀ c : Instr, c = .bookOut p ∨ c = .probeReply p ∨ c = .unlistedPrinterMessage p →
      (r.device.working = true → ∃ u, exec c s = .next u ∧
        u.printer p = { r with misses := 0, probing := false, timer := 5 } ∧ OnlyPrinter p s u ∧
        u = { s with sent := [], prc := u.prc }) ∧
      (r.device.working = false → exec c s = .next { s with sent := [] })) ∧
    (r.device.working = true → 0 < r.clears → ∃ u, exec (.ready p) s = .next u ∧
      u.printer p = { r with misses := 0, probing := false, timer := 5, clears := r.clears - 1 } ∧ OnlyPrinter p s u ∧
      u = { s with sent := [], prc := u.prc }) ∧
    (r.device = .idle → r.clears = 0 → ∃ u, exec (.ready p) s = .next u ∧
      u.printer p = { r with misses := 0, probing := false, timer := 5 } ∧ OnlyPrinter p s u ∧
      u = { s with sent := [], prc := u.prc }) ∧
    (∀ j : Job, (r.device = .waitingBook ∨ r.device = .printing ∨ r.device = .pageTurn) → r.clears = 0 → r.bound = some j.id →
      s.job? j.id = some j → j.printer = some p →
      ∃ u v : State, exec (.ready p) s = .next u ∧ RaisesNotice ⟨s.now, .printerOffline p true r.bound⟩ s v ∧
        v = { s with
          sent := [], hlc := v.hlc, prc := s.prc.set p { r with misses := 0, probing := false, timer := 5 } } ∧
        EndsAt p j .failed .printerLost [] v u) ∧
    (r.device = .offline → ∃ u, exec (.ready p) s = .next u ∧ ((u.printer p).device = .idle ∨
        (u.printer p).device = .waitingBook) ∧ (u.printer p).clears = 0 ∧ (u.printer p).timer = 5 ∧
      (u.printer p).probing = false ∧ (u.printer p).misses = 0 ∧ (u.printer p).faultCode = none ∧
      (u.printer p).owner = r.owner ∧ (u.printer p).hold = r.hold ∧ NothingToPick u ∧
      RaisesNotice ⟨s.now, .printerOnline p r.owner⟩ s u ∧
      PickPassed ({ s with sent := [], prc := s.prc.set p { r with
        device := .idle, clears := 0, probing := false, misses := 0, timer := 5, wrongBooks := 0, faultCode := none } }.raise
          (.printerOnline p r.owner)) u ∧
      ((∀ j ∈ s.pjq.jobs, j.state ≠ .queued) → OnlyPrinter p s u ∧ u.sent = [] ∧ u.pjq = s.pjq ∧ u.slc = s.slc) ∧
      KeepsLine s u ∧
      u = { s with sent := u.sent, prc := u.prc, pjq := u.pjq, slc := u.slc, hlc := u.hlc }) ∧
    (r.device = .fault → exec (.ready p) s = .next { s with sent := [] }) ∧
    ∀ (n : Nat) (code : FaultCode),
      (n = 1 ∧ code = .jam ∨ n = 2 ∧ code = .stripe ∨ n ≠ 1 ∧ n ≠ 2 ∧ code = .mech) →
      (r.device.working = true → BindingsAgree s → ∃ u, exec (.fault p n) s = .next u ∧
        (u.printer p).device = .fault ∧ (u.printer p).faultCode = some code ∧ (u.printer p).clears = 0 ∧
        (u.printer p).probing = false ∧ (u.printer p).misses = 0 ∧ (u.printer p).owner = r.owner ∧
        (u.printer p).hold = r.hold ∧ OnlyPrinter p s u ∧
        (s.hlc.notices.length < 32 →
          u.hlc.notices[s.hlc.notices.length]? = some ⟨s.now, .printerFault p code r.bound⟩) ∧
        (r.bound = none → u.pjq = s.pjq ∧ u.dju = s.dju ∧ u.slc = s.slc ∧
          RaisesNotice ⟨s.now, .printerFault p code none⟩ s u) ∧
        (∀ j : Job, r.bound = some j.id → s.job? j.id = some j →
          u.job? j.id = some (j.ended .failed .printerFault) ∧ (u.printer p).bound = none ∧
          JobCloses j .failed .printerFault ({ s with sent := [], prc := s.prc.set p { r with
            device := .fault, faultCode := some code, clears := 0, probing := false, misses := 0, timer := 5 } }.raise
              (.printerFault p code r.bound)) u) ∧
        OnlyPassbooks s u ∧ KeepsLine s u ∧ KeepsLink s u ∧
        u = { s with
          sent := [], dju := u.dju, prc := u.prc, pjq := u.pjq, slc := u.slc, hlc := u.hlc }) ∧
      (r.device.working = false → exec (.fault p n) s = .next { s with sent := [] })

/-- R112, R113, R114, R117: PRINTER RESET takes a printer in FAULT to OFFLINE with a CLEAR; in OFFLINE a CLEAR goes out at
each run-out of five seconds; in a working state the run-outs send PROBE, and the third missed probe loses the printer, its
binding agreeing with its job's, and ends its job (R140), where it has one. That a run-out acts alone, with one second left, is the model's choice
(log 3). -/
def Obligations.ProbesAndClearsGoOut : Prop :=
  ∀ (s : State) (p : Printer) (r : PrinterRec), r = s.printer p →
    (∀ tag : Nat, s.listening = true → r.device = .fault →
      ∃ u, exec (.printerReset ⟨tag, some ⟨p.val⟩⟩) s = .next u ∧
        u.printer p = { r with
          device := .offline, timer := 5, probing := false, misses := 0, faultCode := none, clears := 1 } ∧
        OnlyPrinter p s u ∧ u = { s with sent := [.printer p .clear, replyTo 0x43 tag .ok []], prc := u.prc }) ∧
    (s.live = true → r.device = .offline → r.timer = 1 → ∃ u, exec (.offlineClearInterval p) s = .next u ∧
      u.printer p = { r with clears := 1, timer := 5 } ∧ OnlyPrinter p s u ∧
      u = { s with sent := [.printer p .clear], prc := u.prc }) ∧
    (s.live = true → r.device.working = true → r.timer = 1 → r.probing = false ∨ r.misses < 2 →
      ∃ u, exec (.probeTimerRunout p) s = .next u ∧
        u.printer p = { r with
          probing := true, timer := 5, misses := if r.probing then r.misses + 1 else r.misses } ∧
        OnlyPrinter p s u ∧ u = { s with sent := [.printer p .probe], prc := u.prc }) ∧
    (s.live = true → r.device.working = true → r.timer = 1 → r.probing = true → 2 ≤ r.misses →
      BindingsAgree s → ∃ u, exec (.probeTimerRunout p) s = .next u ∧ (u.printer p).device = .offline ∧ (u.printer p).timer = 5 ∧
        (u.printer p).probing = false ∧ (u.printer p).misses = 0 ∧ (u.printer p).owner = r.owner ∧
        (u.printer p).hold = r.hold ∧ OnlyPrinter p s u ∧
        (s.hlc.notices.length < 32 →
          u.hlc.notices[s.hlc.notices.length]? = some ⟨s.now, .printerOffline p false r.bound⟩) ∧
        (r.bound = none → u.pjq = s.pjq ∧ u.dju = s.dju ∧ u.slc = s.slc ∧
          RaisesNotice ⟨s.now, .printerOffline p false none⟩ s u) ∧
        (∀ j : Job, r.bound = some j.id → s.job? j.id = some j →
          u.job? j.id = some (j.ended .failed .printerLost) ∧ (u.printer p).bound = none ∧
          JobCloses j .failed .printerLost ({ s with sent := [], prc := s.prc.set p { r with
            device := .offline, probing := false, misses := 0, timer := 5 } }.raise (.printerOffline p false r.bound)) u) ∧
        OnlyPassbooks s u ∧ KeepsLine s u ∧ KeepsLink s u ∧
        u = { s with sent := [], dju := u.dju, prc := u.prc, pjq := u.pjq, slc := u.slc, hlc := u.hlc })

/-! ### Print jobs (R127 to R147) -/

/-- R127, R128, R129: a PRINT SUBMIT that passes its checks puts a job with the next id at the end of the table, with the oldest
finished job gone from a full one, makes the postings it names PENDING and makes a pick pass (R118, R119, R130); the other jobs
stand. -/
def Obligations.PrintSubmitJoinsTheTable : Prop :=
  ∀ (s : State) (tag : Nat) (st : Station) (o : SignOn) (book : Text) (lines : List SubmitLine) (kept : List Job),
    s.listening = true → s.dayState ≠ .unset → s.presence st = .signedOn o → book.length = 12 →
    (∀ b ∈ book, 0x20 ≤ b.toNat ∧ b.toNat ≤ 0x7E) → 1 ≤ lines.length → lines.length ≤ 12 →
    (∀ l ∈ lines, 1 ≤ l.text.length ∧ l.text.length ≤ 40 ∧ (∀ b ∈ l.text, inCharset (s.station st).setup.charset b = true) ∧
      ∀ q, l.seq = some q → 1 ≤ q ∧ q ≤ 4294967295 ∧ ∃ e, s.entry? q = some e ∧
        (e.kind = .cashIn ∨ e.kind = .cashOut) ∧ e.status = .live ∧ e.passbook = .none) →
    (lines.filterMap (·.seq)).Nodup → s.pjq.jobs.length ≤ 24 →
    (s.pjq.jobs.length < 24 ∧ kept = s.pjq.jobs ∨ s.pjq.jobs.length = 24 ∧
      (∃ j ∈ s.pjq.jobs, j.state.unfinished = false) ∧ kept = s.pjq.jobs.eraseP fun j => !j.state.unfinished) →
    ∃ (u : State) (id : Nat) (j : Job), exec (.printSubmit ⟨tag, some ⟨stationNo st, book, lines⟩⟩) s = .next u ∧
      1 ≤ id ∧ id ≤ 255 ∧ (∀ k ∈ kept, k.id ≠ id) ∧ u.pjq.lastJob = id ∧
      NextIdAfter s.pjq.lastJob (kept.map (·.id)) id ∧
      (∃ w, PickPassed { s with
          sent := [], dju := u.dju
          pjq := { lastJob := id, jobs := kept ++ [{
            id := id, station := st, book := book, state := .queued, printer := none, next := 1, place := none, wait := none,
            cancelPending := false, printed := 0, reason := none
            lines := lines.map fun l => {
              text := l.text, state := .waiting, noteSeq := none, printedAt := none
              posting := l.seq.bind fun q => (s.entry? q).map fun e => ⟨q, e.till, e.day⟩ } }] } } w ∧
        u = { w with sent := u.sent } ∧ u.sent.dropLast = w.sent) ∧
      u.pjq.jobs.map (·.id) = kept.map (·.id) ++ [id] ∧ u.job? id = some j ∧ j.station = st ∧ j.book = book ∧
      j.next = 1 ∧ j.printed = 0 ∧ j.cancelPending = false ∧ j.place = none ∧ j.reason = none ∧
      (j.state = .queued ∧ j.printer = none ∧ j.wait = none ∨
        j.state = .started ∧ (∃ p : Printer, j.printer = some p) ∧ j.wait = some 180) ∧
      j.lines.map (fun l => (l.text, l.posting.map (·.seq), l.state)) =
        lines.map (fun l => (l.text, l.seq, LineState.waiting)) ∧
      (∀ l ∈ lines, ∀ q e, l.seq = some q → s.entry? q = some e → u.entry? q = some { e with passbook := .pending }) ∧
      (∀ q : Nat, (∀ l ∈ lines, l.seq ≠ some q) → u.entry? q = s.entry? q) ∧ NothingToPick u ∧
      u.sent.getLast? = some (replyTo 0x48 tag .ok [.num 1 id, .num 1 j.state.code]) ∧
      ((∀ p : Printer, s.readyToPick p = false) → j.state = .queued ∧ u.prc = s.prc ∧ u.slc = s.slc ∧
        u.sent = [replyTo 0x48 tag .ok [.num 1 id, .num 1 1]]) ∧
      OnlyPassbooks s u ∧ KeepsLine s u ∧
      u = { s with sent := u.sent, dju := u.dju, pjq := u.pjq, prc := u.prc, slc := u.slc }

/-- R141, R147: PRINT CANCEL ends a job that is not yet printing (R140), with a CLEAR where its printer waits for the book and a
pick pass after it, marks a PRINTING one and refuses a finished one; JOB STATUS reports a job item by item, and a finished job
leaves the table with the report. The items' forms, where R202 leaves them open, are the model's choice (log 15), and the byte of
the end-of-page mark is a free value (log 13). -/
def Obligations.JobsAreCancelledAndReported : Prop :=
  ∀ (s : State) (tag : Nat) (j : Job), s.listening = true → s.job? j.id = some j → 1 ≤ j.id → j.id ≤ 255 →
    (j.state = .queued → j.printer = none → ∃ u, exec (.printCancel ⟨tag, some ⟨j.id⟩⟩) s = .next u ∧
      u.job? j.id = some (j.ended .cancelled .host) ∧ u.pjq.lastJob = s.pjq.lastJob ∧
      RaisesNotice ⟨s.now, .jobEnded j.id j.station .cancelled .host j.printed none j.place⟩ s u ∧
      (∃ w, JobCloses j .cancelled .host { s with sent := [] } w ∧ u = { w with sent := u.sent }) ∧
      OnlyPassbooks s u ∧ KeepsLine s u ∧
      u = { s with
        sent := [replyTo 0x49 tag .ok [.num 1 1]], dju := u.dju, pjq := u.pjq, slc := u.slc, hlc := u.hlc }) ∧
    (∀ p : Printer, (j.state = .started ∨ j.state = .pageTurn) → j.printer = some p →
      ∃ u, exec (.printCancel ⟨tag, some ⟨j.id⟩⟩) s = .next u ∧ u.job? j.id = some (j.ended .cancelled .host) ∧
        u.sent.head? = some (.printer p .clear) ∧ u.sent.getLast? = some (replyTo 0x49 tag .ok [.num 1 1]) ∧
        (u.printer p).clears = min 3 ((s.printer p).clears + 1) ∧ (u.printer p).bound ≠ some j.id ∧
        ((s.printer p).device.working = true → ∃ w, EndsAt p j .cancelled .host [] { s with
            sent := [.printer p .clear]
            prc := s.prc.set p { s.printer p with clears := min 3 ((s.printer p).clears + 1) } } w ∧
          u = { w with sent := u.sent } ∧ u.sent.dropLast = w.sent) ∧
        OnlyPassbooks s u ∧ KeepsLine s u ∧ KeepsLink s u ∧
        u = { s with sent := u.sent, dju := u.dju, pjq := u.pjq, prc := u.prc, slc := u.slc, hlc := u.hlc }) ∧
    (j.state = .printing → exec (.printCancel ⟨tag, some ⟨j.id⟩⟩) s = .next { s with
      sent := [replyTo 0x49 tag .ok [.num 1 2]]
      pjq := { s.pjq with jobs := s.pjq.jobs.map fun k => if k.id = j.id then { j with cancelPending := true } else k } }) ∧
    (j.state = .done ∨ j.state = .failed ∨ j.state = .cancelled →
      exec (.printCancel ⟨tag, some ⟨j.id⟩⟩) s = .next { s with sent := [replyTo 0x49 tag .wrongState []] }) ∧
    exec (.jobStatus ⟨tag, some ⟨j.id⟩⟩) s = .next { s with
      sent := [replyTo 0x4A tag .ok ([.num 1 j.id, .num 1 (stationNo j.station), textItem 12 j.book, .num 1 j.state.code] ++
        optNum 1 (j.reason.map Reason.code) ++ optNum 1 (j.printer.map (·.val)) ++ optNum 2 j.wait ++
        [flag j.cancelPending] ++ optItem j.place (u8 0) (fun q => u8 q.page) ++ optItem j.place (u8 0)
          (fun q => match q.line with | some n => u8 n | none => .raw [Config.endOfPageByte]) ++
        [u8 j.next, u8 j.printed] ++ listOf j.lines (fun l => [u8 l.state.code] ++ optNum 4 (l.posting.map (·.seq)) ++
          optNum 1 (l.posting.map (·.till.val)) ++ optNum 2 (l.posting.map (·.day)) ++ optNum 4 l.noteSeq ++
          optNum 1 (l.printedAt.map (·.1)) ++ optNum 1 (l.printedAt.map (·.2))))]
      pjq := { s.pjq with jobs := if j.state = .done ∨ j.state = .failed ∨ j.state = .cancelled
        then s.pjq.jobs.filter (fun k => k.id != j.id) else s.pjq.jobs } }

/-- R130 to R138, R142: the right book brings the next line to the paper, at the job's start and at its page turn, and a wrong
one is ejected, the third of them with the job; INSERT_BOOK and TURN_PAGE follow the station's jobs (R126); LINE_DONE makes the SENT line and its posting PRINTED, with a note where its day
is past; PAGE_FULL returns the line. After either a cancel is completed, the page ends or the next line is sent, and a job with
no line left is DONE; the next line index it stands at is the model's choice (log 14). A job's end is followed by a pick pass
(R118, R119). -/
def Obligations.BooksAndLinesReachThePaper : Prop :=
  ∀ (s w : State) (p : Printer) (r : PrinterRec) (j : Job), s.live = true → r = s.printer p → r.device.working = true →
    w = { s with sent := [], prc := s.prc.set p { r with misses := 0, probing := false, timer := 5 } } →
    (r.device = .idle → ∀ (book : Text) (page line : Nat), ∃ u, exec (.bookIn p book page line) s = .next u ∧
      u.printer p = { r with misses := 0, probing := false, timer := 5 } ∧ OnlyPrinter p s u ∧
      u = { s with sent := [.printer p .eject], prc := u.prc }) ∧
    (r.device ≠ .idle → r.bound = some j.id → s.job? j.id = some j →
      (j.state = .started → ∀ (page line n : Nat) (l : JobLine), 1 ≤ page → page ≤ 32 → 1 ≤ line → line ≤ 24 →
        nextWaiting j.lines j.next = some n → j.lines[n - 1]? = some l → s.lateLine l = none →
        ∃ u, exec (.bookIn p j.book page line) s = .next u ∧
          u.job? j.id = some { j with
            state := .printing, place := some ⟨page, some line⟩, wait := none, next := n,
            lines := j.lines.set (n - 1) { l with state := .sent } } ∧
          u.printer p = { r with misses := 0, probing := false, timer := 5, device := .printing } ∧ OnlyPrinter p s u ∧
          RaisesNotice ⟨s.now, .bookIn j.id j.station p page line⟩ s u ∧ JobsShown j.station s u ∧ KeepsLine s u ∧
          u = { s with
            sent := [.printer p (.printLine line l.text)], pjq := u.pjq, prc := u.prc, slc := u.slc, hlc := u.hlc }) ∧
      (j.state = .started → ∀ (book : Text) (page line : Nat),
        (book ≠ j.book ∨ page = 0 ∨ 32 < page ∨ line = 0 ∨ 24 < line) → r.wrongBooks < 2 →
        ∃ u, exec (.bookIn p book page line) s = .next u ∧
          u.printer p = { r with misses := 0, probing := false, timer := 5, wrongBooks := r.wrongBooks + 1 } ∧
          OnlyPrinter p s u ∧ u = { s with sent := [.printer p .eject], prc := u.prc }) ∧
      (j.state = .printing → ∀ (i ln : Nat) (l : JobLine) (page : Nat), j.sentLine = some (i, l) →
        j.place = some ⟨page, some ln⟩ →
        ∃ (u : State) (k : Job) (done : JobLine), exec (.lineDone p) s = .next u ∧ u.job? j.id = some k ∧
          k.printed = j.printed + 1 ∧ k.lines[i]? = some done ∧ done.state = .printed ∧
          done.printedAt = some (page, ln) ∧ done.text = l.text ∧ done.posting = l.posting ∧
          (∀ (x : LinePosting) (e : Entry), l.posting = some x → s.entry? x.seq = some e →
            u.entry? x.seq = some { e with passbook := .printed s.dayNumber }) ∧
          (∀ (n : Nat) (next : JobLine), j.cancelPending = false → ln < 24 → s.lateLine l = none →
            nextWaiting (j.lines.set i done) j.next = some n → j.lines[n - 1]? = some next → s.lateLine next = none →
            k.state = .printing ∧ k.place = some ⟨page, some (ln + 1)⟩ ∧
            u.sent = [.printer p (.printLine (ln + 1) next.text)] ∧ u.prc = s.prc.set p (u.printer p) ∧
            OnlyPassbooks s u ∧ u = { s with sent := u.sent, dju := u.dju, pjq := u.pjq, prc := u.prc }) ∧
          KeepsLine s u ∧ KeepsLink s u ∧
          u = { s with
            sent := u.sent, dju := u.dju, pjq := u.pjq, prc := u.prc, slc := u.slc, hlc := u.hlc }) ∧
      (j.state = .printing → ∀ (q : Place), j.place = some q → q.page < 32 → j.cancelPending = false →
        nextWaiting (j.lines.map JobLine.unsent) j.next ≠ none →
        ∃ u, exec (.pageFull p) s = .next u ∧
          u.job? j.id = some { j with
            state := .pageTurn, place := some ⟨q.page + 1, some 1⟩, wait := some 180,
            lines := j.lines.map JobLine.unsent } ∧
          u.printer p = { r with misses := 0, probing := false, timer := 5, device := .pageTurn } ∧ OnlyPrinter p s u ∧
          JobsShown j.station s u ∧ KeepsLine s u ∧
          u = { s with
            sent := [.printer p (.writeStripe (q.page + 1) 1), .printer p .eject], pjq := u.pjq, prc := u.prc,
            slc := u.slc }) ∧
      (∀ (page line : Nat), (j.state = .started ∨ j.state = .pageTurn ∧ j.place.map (·.page) = some page) → 1 ≤ page → page ≤ 32 →
        1 ≤ line → line ≤ 24 → j.printer = some p → ∀ k : Job,
        k = { j with state := .printing, place := some ⟨page, some line⟩, wait := none } →
        ∃ u v : State, exec (.bookIn p j.book page line) s = .next u ∧ JobsShown j.station w v ∧ KeepsLine w v ∧
          RaisesNotice ⟨s.now, .bookIn j.id j.station p page line⟩ w v ∧
          v.printer p = { w.printer p with device := .printing } ∧ OnlyPrinter p w v ∧
          v = { w with prc := v.prc, slc := v.slc, hlc := v.hlc, pjq := { s.pjq with jobs := jobsWith k s } } ∧
          SeeksLine p k v u) ∧
      (j.state = .pageTurn → ∀ (page line : Nat), 1 ≤ page → page ≤ 32 → 1 ≤ line → line ≤ 24 →
        j.place.map (·.page) ≠ some page → exec (.bookIn p j.book page line) s = .next { w with sent := [.printer p .eject] }) ∧
      ((j.state = .started ∨ j.state = .pageTurn) → ∀ (book : Text) (page line : Nat),
        (book ≠ j.book ∨ page = 0 ∨ 32 < page ∨ line = 0 ∨ 24 < line) →
        (r.wrongBooks < 2 → exec (.bookIn p book page line) s = .next { w with
          sent := [.printer p .eject]
          prc := w.prc.set p { w.printer p with wrongBooks := r.wrongBooks + 1 } }) ∧
        (2 ≤ r.wrongBooks → j.printer = some p → ∃ u v : State, exec (.bookIn p book page line) s = .next u ∧
          v = { w with prc := w.prc.set p { w.printer p with
            wrongBooks := r.wrongBooks + 1, clears := min 3 (r.clears + 1) } } ∧
          EndsAt p j .failed .wrongBook [.eject, .clear] v u)) ∧
      (j.state = .printing → j.printer = some p →
        (∀ (i : Nat) (l done : JobLine) (q : Place) (k : Job) (posted : State), j.sentLine = some (i, l) → j.place = some q →
          done = { l with state := .printed, printedAt := some (q.page, q.line.getD 1) } →
          k = { j with
            lines := j.lines.set i done, printed := j.printed + 1
            place := some { q with line := q.line.bind fun n => if n < 24 then some (n + 1) else none } } →
          posted = { w with dju := { s.dju with journal := s.dju.journal.map (fun e =>
            if l.posting.map (·.seq) = some e.seq then { e with passbook := .printed s.dayNumber } else e) } } →
          ∃ u, exec (.lineDone p) s = .next u ∧
            (s.lateLine l = none → FollowsLine p k { posted with pjq := { s.pjq with jobs := jobsWith k s } } u) ∧
            ∀ x : LinePosting, s.lateLine l = some x →
              (1 ≤ s.free → s.dju.nextSeq ≤ 4294967295 → ∃ (v : State) (noted : Job),
                noted = { k with lines := j.lines.set i { done with noteSeq := some s.dju.nextSeq } } ∧
                JournalGrows (noteEntry j x s) posted v ∧ KeepsLink posted v ∧
                v = { posted with
                  dju := v.dju, hlc := v.hlc, pjq := { s.pjq with jobs := jobsWith noted s } } ∧
                FollowsLine p noted v u) ∧
              ((s.free = 0 ∨ 4294967295 < s.dju.nextSeq) → EndsAt p k .failed .journalFull (bookOut k.place)
                { posted with pjq := { s.pjq with jobs := jobsWith k s } } u)) ∧
        ∀ (q : Place) (k : Job), j.place = some q →
          k = { j with lines := j.lines.map JobLine.unsent, place := some { q with line := none } } →
          ∃ u, exec (.pageFull p) s = .next u ∧ FollowsLine p k { w with pjq := { s.pjq with jobs := jobsWith k s } } u))

/-! ### Run-outs (R73, R139) -/

/-- R139: a job whose wait runs out at its printer fails with NO_BOOK, its prompt taken down by a CLEAR. R39, R73, R143: a
LOST station whose grace runs out is signed off by force: VACANT with clear indicators, its till LAPSED, its QUEUED jobs
cancelled, and a COUNTING one's pending limits applied (R58). That a run-out acts alone, with one second left, is the model's
choice (log 3). No arming awaits the gate. -/
def Obligations.WaitsAndGracesRunOut : Prop :=
  ∀ s : State, s.live = true →
    (∀ (j : Job) (p : Printer), s.job? j.id = some j → j.wait = some 1 → j.printer = some p →
      ∃ u, exec (.jobWaitTimeout j.id) s = .next u ∧ u.job? j.id = some (j.ended .failed .noBook) ∧
        u.sent.head? = some (.printer p .clear) ∧ (u.printer p).clears = min 3 ((s.printer p).clears + 1) ∧
        (u.printer p).bound ≠ some j.id ∧ NothingToPick u ∧
        RaisesNotice ⟨s.now, .jobEnded j.id j.station .failed .noBook j.printed (some p) j.place⟩ s u ∧
        (∃ w, JobCloses j .failed .noBook { s with
            sent := [.printer p .clear]
            prc := s.prc.set p { s.printer p with clears := min 3 ((s.printer p).clears + 1) } } w ∧ OnlyPrinter p s w ∧
          w.printer p = { s.printer p with
            clears := min 3 ((s.printer p).clears + 1), bound := none, wrongBooks := 0
            device := if (s.printer p).device.working then .idle else (s.printer p).device } ∧ PickPassed w u) ∧
        OnlyPassbooks s u ∧ KeepsLine s u ∧ KeepsLink s u ∧
        u = { s with sent := u.sent, dju := u.dju, pjq := u.pjq, prc := u.prc, slc := u.slc, hlc := u.hlc }) ∧
    (∀ (st : Station) (o : SignOn) (queued : List Job), s.presence st = .lost o 1 → NoGate s →
      (∀ j ∈ s.pjq.jobs, j.state = .queued → j.printer = none) →
      queued = s.pjq.jobs.filter (fun j => j.station = st ∧ j.state = .queued) →
      ∃ u, exec (.graceExpiry st) s = .next u ∧ u.presence st = .vacant ∧ OnlyPresence st s u ∧
        (u.line st).indicators = 0#8 ∧ (∀ j ∈ u.pjq.jobs, j.station = st → j.state ≠ .queued) ∧
        (∀ t : Till, u.till t = if o.held = some t
          then { s.till t with state := .lapsed, holder := none, count := none } else s.till t) ∧
        u.tlu = { s.tlu with tills := u.tlu.tills } ∧
        u.lmu = (match o.held with | some t => (s.applyPending t).lmu | none => s.lmu) ∧
        (∀ x : Station, x ≠ st → u.line x = s.line x) ∧ FreesPostings (queued.map (·.lines)).flatten s u ∧
        ((s.pjq.jobs.map (·.id)).Nodup → u.pjq = { s.pjq with jobs := s.pjq.jobs.map fun j =>
            if j.station = st ∧ j.state = .queued then j.ended .cancelled .signedOff else j } ∧
          (s.hlc.notices.length + queued.length < 32 → u.hlc.notices = s.hlc.notices ++
            (queued.map fun j => ⟨s.now, .jobEnded j.id j.station .cancelled .signedOff j.printed none j.place⟩) ++
            [⟨s.now, .signoffForced st o.operator o.role o.held queued.length
              ((s.pjq.jobs.filter fun j => j.station = st ∧ (j.state = .started ∨ j.state = .printing ∨ j.state = .pageTurn)).map
                (·.id))⟩])) ∧
        ((∀ j ∈ s.pjq.jobs, j.station ≠ st) → u.pjq = s.pjq ∧ u.dju = s.dju ∧
          RaisesNotice ⟨s.now, .signoffForced st o.operator o.role o.held 0 []⟩ s u) ∧
        OnlyPassbooks s u ∧ SlotsFollow s u ∧ KeepsLine s u ∧ KeepsLink s u ∧
        u = { s with
          sent := [], tlu := u.tlu, stu := u.stu, lmu := u.lmu, dju := u.dju, pjq := u.pjq, slc := u.slc,
          hlc := u.hlc })

/-! ### The cut (R151 to R161) -/

/-- R151 to R153, R155, R156: CUT ARM arms the day, AT_TIME for its trigger and the other modes at the gate where it holds,
and shows CUT_ARMED on every signed-on station, whose status slot follows (R95, R96); CUT DISARM ends the arming and reports what was in force. The form of the reply
of CUT ARM, where R202 leaves it open, is the model's choice (log 15). -/
def Obligations.CutArmArmsAndCutDisarmDisarms : Prop :=
  ∀ (s : State) (tag : Nat), s.listening = true →
    (∀ (mode : Nat) (time : Option Nat) (force : Bool) (arm : Arm), s.dayState = .opened → s.dju.cutRecord = none →
      arm.armedAt = s.now → arm.force = force → arm.trigger = time →
      (mode = 2 ∧ (∃ n, time = some n ∧ n ≤ 86399) ∧ arm.mode = .atTime ∧ arm.state = .awaitTrigger ∧
          arm.triggeredAt = none ∨
        mode = 1 ∧ time = none ∧ force = false ∧ s.gateMet = false ∧ arm.mode = .immediate ∧ arm.state = .awaitGate ∧
          arm.triggeredAt = some s.now ∨
        mode = 3 ∧ time = none ∧ force = false ∧ s.gateMet = false ∧ arm.mode = .gate ∧ arm.state = .awaitGate ∧
          arm.triggeredAt = none) →
      ∃ u, exec (.cutArm ⟨tag, some ⟨mode, time, force⟩⟩) s = .next u ∧ u.dayState = .armed ∧
        (∀ x : Station, (s.signOn? x).isSome = true → hasBit (u.line x).indicators .cutArmed = true) ∧
        (∀ (x : Station) (i : Indicator), i ≠ .cutArmed ∨ s.signOn? x = none →
          hasBit (u.line x).indicators i = hasBit (s.line x).indicators i) ∧ SlotsFollow s u ∧ KeepsLine s u ∧
        u = { s with
          cut := some arm, slc := u.slc
          sent := [replyTo 0x50 tag .ok ([.num 1 arm.state.code, .num 1 0, .num 2 0, .num 1 0, .num 4 0] ++
            [.num 1 1, flag s.hlc.clock.valid])] }) ∧
    (s.dayState = .unset → exec (.cutDisarm ⟨tag, some ⟨⟩⟩) s = .next { s with sent := [replyTo 0x51 tag .dayUnset []] }) ∧
    (s.dayState = .opened → exec (.cutDisarm ⟨tag, some ⟨⟩⟩) s =
      .next { s with sent := [replyTo 0x51 tag .wrongState []] }) ∧
    ∀ a : Arm, s.dayState = .armed → s.cut = some a → ∃ u, exec (.cutDisarm ⟨tag, some ⟨⟩⟩) s = .next u ∧
      u.dayState = .opened ∧
      (∀ x : Station, (s.signOn? x).isSome = true → hasBit (u.line x).indicators .cutArmed = false) ∧
      (∀ (x : Station) (i : Indicator), i ≠ .cutArmed ∨ s.signOn? x = none →
        hasBit (u.line x).indicators i = hasBit (s.line x).indicators i) ∧ SlotsFollow s u ∧ KeepsLine s u ∧
      u = { s with
        cut := none, slc := u.slc, sent := [replyTo 0x51 tag .ok [.num 1 a.state.code, .num 1 a.mode.code]] }

/-- R152, R154, R155, R158 to R161, R168: the cut, at once by CUT ARM, at its trigger by the clock or TIME SET, forced or
through a gate that is met, and by the event that meets the gate an arming awaits; a trigger that finds the gate holding leaves
the arming at the gate. The reply of a CUT ARM that cuts carries the day and the cut seq (its form is the model's, log 15).
That CUT_TRIGGER is the second that brings the clock to its trigger is the model's choice (log 3), and so is that of the
run-outs. -/
def Obligations.TheCutClosesTheDay : Prop :=
  (∀ (s : State) (tag mode : Nat) (force : Bool) (cause : CutCause) (d : DayRecord) (w : State), s.listening = true →
    s.dju.day = some d → s.cut = none → s.dju.cutRecord = none → w = { s with sent := [] } →
    (mode = 1 ∧ force = true ∧ cause = .forced ∨
      (mode = 1 ∨ mode = 3) ∧ force = false ∧ s.gateMet = true ∧ cause = .gate) →
    ∃ u, exec (.cutArm ⟨tag, some ⟨mode, none, force⟩⟩) s = .next u ∧ CutFrom cause d w u ∧
      u.sent = cutSends w u ++ [replyTo 0x50 tag .ok
        [.num 1 1, .num 1 1, .num 2 d.number, .num 1 1, .num 4 (s.dju.nextSeq - 1), .num 1 0, .num 1 0]]) ∧
  (∀ (s : State) (c : Instr) (d : DayRecord) (a : Arm) (clock : Clock) (reply : List Sent) (w : State), s.live = true →
    s.dju.day = some d → s.cut = some a → a.state = .awaitTrigger → a.trigger = some clock.time →
    (c = .cutTrigger ∧ s.hlc.clock.valid = true ∧ NextSecond s.hlc.clock clock ∧ reply = [] ∨
      ∃ tag, c = .timeSet ⟨tag, some ⟨clock.time, clock.date⟩⟩ ∧ s.listening = true ∧ clock.valid = true ∧
        clock.time ≤ 86399 ∧ clock.date ≤ 65535 ∧ reply = [replyTo 0x61 tag .ok [.num 4 s.hlc.clock.time,
          .num 2 s.hlc.clock.date, flag s.hlc.clock.valid, .num 4 clock.time, .num 2 clock.date]]) →
    w = { s with sent := [], hlc := { s.hlc with clock := clock } } →
    ∃ u, exec c s = .next u ∧
      (a.force = true → CutFrom .forced d w u ∧ u.sent = cutSends w u ++ reply) ∧
      (a.force = false → s.gateMet = true → CutFrom .gate d w u ∧ u.sent = cutSends w u ++ reply) ∧
      (a.force = false → s.gateMet = false → u = { w with
        sent := reply, cut := some { a with state := .awaitGate, triggeredAt := some clock.time } })) ∧
  ∀ (s v : State) (c : Instr) (d : DayRecord) (a : Arm), s.dju.day = some d → s.cut = some a → a.state = .awaitGate →
    s.gateMet = false →
    ((∃ r, c = .takeTill r) ∨ (∃ r, c = .releaseTill r) ∨ (∃ r, c = .countBegin r) ∨ (∃ r, c = .countDeclare r) ∨
      (∃ r, c = .countAbandon r) ∨ (∃ r, c = .transferAccept r) ∨ (∃ r, c = .transferReject r) ∨
      (∃ x, c = .transferExpiry x) ∨ (∃ x, c = .transferReturnRetry x) ∨ ∃ st, c = .graceExpiry st) →
    exec c { s with cut := some { a with state := .awaitTrigger } } = .next v →
    ∃ u, exec c s = .next u ∧ (v.gateMet = false → u = { v with cut := some a }) ∧
      (v.gateMet = true → CutFrom .gate d v u ∧ u.sent = cutSends v u ++ v.sent)

/-! ### Sending to head office (R168, R172 to R183) -/

/-- R172 to R174: SEND CONFIG takes both settings, and SEND START, SEND RESUME and SEND RESTART begin the link test afresh
from the block they name; SEND CONFIG's change from off to on starts a READY send with carrier. The one byte of the threshold is
the model's choice (log 15). -/
def Obligations.SendRequestsStartTheTest : Prop :=
  ∀ (s : State) (tag : Nat), s.listening = true →
    (∀ (on : Bool) (threshold : Nat), threshold ≤ 255 →
      (on = false ∨ s.hos.autoStart = true ∨ s.hos.state ≠ .ready ∨ s.pins.carrier = false) →
      exec (.sendConfig ⟨tag, some ⟨on, threshold⟩⟩) s = .next { s with
        sent := [replyTo 0x58 tag .ok [flag on, .num 1 threshold, .num 1 s.hos.state.code]]
        hos := { s.hos with autoStart := on, threshold := threshold } }) ∧
    ∀ b : Batch, s.pins.carrier = true → s.hos.batch = some b →
      (∀ threshold : Nat, threshold ≤ 255 → s.hos.autoStart = false → s.hos.state = .ready →
        ∃ u, exec (.sendConfig ⟨tag, some ⟨true, threshold⟩⟩) s = .next u ∧
          TestingFor b { s with hos := { s.hos with autoStart := true, threshold := threshold } } u ∧
          u = { s with hos := u.hos, sent := [.test u.hos.test.chars,
            replyTo 0x58 tag .ok [.num 1 1, .num 1 threshold, .num 1 3]] }) ∧
      (s.hos.state = .ready → ∃ u, exec (.sendStart ⟨tag, some ⟨⟩⟩) s = .next u ∧ TestingFor b s u ∧
        u = { s with hos := u.hos, sent := [.test u.hos.test.chars, replyTo 0x59 tag .ok [.num 1 3]] }) ∧
      (∀ why, s.hos.state = .suspended why → ∃ u, exec (.sendResume ⟨tag, some ⟨⟩⟩) s = .next u ∧ TestingFor b s u ∧
        u = { s with
          hos := u.hos, sent := [.test u.hos.test.chars, replyTo 0x5A tag .ok [.num 1 3, .num 2 b.oldest]] }) ∧
      ((s.hos.state = .ready ∨ ∃ why, s.hos.state = .suspended why) →
        ∃ u, exec (.sendRestart ⟨tag, some ⟨⟩⟩) s = .next u ∧ TestingFor { b with oldest := 1 } s u ∧
          u = { s with
            hos := u.hos, sent := [.test u.hos.test.chars, replyTo 0x5B tag .ok [.num 1 3, .num 2 1]] })

/-- R168, R175, R176: a TEST frame is settled by its echo or by the run-out of its two seconds; the 64th settles the test,
which passes up to the threshold, and the first blocks are handed to the link (R169 to R171, R177, the printed flag as log 24
reads it), and else suspends the send; an ECHO that no frame awaits is discarded. That the run-out acts alone, with one second left, is the
model's choice (log 3). -/
def Obligations.LinkTestFramesAreSettled : Prop :=
  (∀ (s : State) (chars : Text), s.hos.state ≠ .testing ∨ s.hos.test.echoTimer = none → Discards (.echo chars) s) ∧
  ∀ (s : State) (c : Instr) (b : Batch) (t : LinkTest) (errs : Nat), s.live = true → s.hos.state = .testing →
    s.hos.batch = some b → t = s.hos.test → t.chars.length = 16 →
    ((∃ chars : Text, c = .echo chars ∧ t.echoTimer.isSome = true ∧ errs = if chars.length = 16
        then ((List.range 16).filter fun i => chars[i]? ≠ t.chars[i]?).length else 16) ∨
      c = .echoTimeout ∧ t.echoTimer = some 1 ∧ errs = 16) →
    ∃ u, exec c s = .next u ∧ u.hos.test.frames = t.frames + 1 ∧ u.hos.test.errored = min 255 (t.errored + errs) ∧
      u.hos.test.live = decide (0 < errs) ∧ u.hos.test.sticky = (t.sticky || decide (0 < errs)) ∧
      (t.frames + 1 < 64 → u.hos.state = .testing ∧ u.hos.test.echoTimer = some 2 ∧ u.hos.test.result = t.result ∧
        (u.hos.test.generator, u.hos.test.chars) = patternChars 16 t.generator ∧
        u = { s with sent := [.test u.hos.test.chars], hos := { s.hos with test := u.hos.test } }) ∧
      (64 ≤ t.frames + 1 → min 255 (t.errored + errs) ≤ s.hos.threshold → u.hos.state = .sending ∧
        u.hos.test.result = some true ∧ u.hos.test.echoTimer = none ∧ u.hos.batch = some b ∧
        (s.hos.next = some b.oldest → Hands b b.oldest { s with sent := [], hos := { s.hos with
          state := .sending, test := { t with
            frames := t.frames + 1, errored := min 255 (t.errored + errs), live := decide (0 < errs)
            sticky := t.sticky || decide (0 < errs), echoTimer := none, result := some true } } } u) ∧
        u = { s with sent := u.sent, hos := u.hos }) ∧
      (64 ≤ t.frames + 1 → s.hos.threshold < min 255 (t.errored + errs) →
        SuspendedFor .linePoor (.errored (min 255 (t.errored + errs))) b s u ∧ u.hos.test.result = some false ∧
        u = { s with sent := [], hos := u.hos, hlc := u.hlc })

/-- R177 to R179, R183: an ACK within the window takes the blocks up to its number out of it, and one that covers block N
completes the batch; a NAK within it counts a failure against its block and sends again from there, and the fourth
suspends; others are discarded, and so are both in IDLE, READY, TESTING and SUSPENDED. In SENDING the blocks that the window then allows are handed to the link, each built from the
journal and the cut record (R169 to R171, R177, the printed flag as log 24 reads it). -/
def Obligations.AcksAndNaksMoveTheWindow : Prop :=
  (∀ (s : State) (n : Nat),
    s.hos.state ≠ .sending ∧ s.hos.state ≠ .held ∨ s.hos.batch = none ∨ s.hos.window = [] →
    Discards (.ack n) s ∧ Discards (.nak n) s) ∧
  ∀ (s : State) (b : Batch) (n top retries : Nat), s.live = true → (s.hos.state = .sending ∨ s.hos.state = .held) →
    s.hos.batch = some b → s.hos.window.getLast? = some (top, retries) →
    (n < b.oldest ∨ top < n → Discards (.ack n) s ∧ Discards (.nak n) s) ∧
    (b.oldest ≤ n → n ≤ top →
      (n = b.blocks → ∃ u, exec (.ack n) s = .next u ∧ u.dju.journal = s.dju.journal.dropWhile (fun e => e.day = b.day) ∧
        u.dju.cutRecord = none ∧ u.dju.day = s.dju.day ∧ u.dju.nextSeq = s.dju.nextSeq ∧
        (u.dju.lowMark = true ↔ s.dju.lowMark = true ∧ u.free ≤ 640) ∧
        u.hos = { s.hos with
          state := .idle, batch := none, next := none, window := [], ackTimer := none, holdTimer := none } ∧
        RaisesNotice ⟨s.now, .sendDone b.day b.blocks (s.dju.journal.filter fun e => e.day = b.day).length u.free⟩ s u ∧
        u = { s with sent := [], dju := u.dju, hos := u.hos, hlc := u.hlc }) ∧
      (n ≠ b.blocks → ∃ u, exec (.ack n) s = .next u ∧ u.hos.state = s.hos.state ∧
        u.hos.batch = some { b with oldest := n + 1 } ∧ (∀ w ∈ u.hos.window, n < w.1) ∧
        (∀ w ∈ s.hos.window, n < w.1 → w ∈ u.hos.window) ∧
        (s.hos.state = .held → u.hos.window = s.hos.window.filter (fun w => n < w.1) ∧ u.hos.ackTimer = none ∧
          u.hos.holdTimer = s.hos.holdTimer ∧ u.sent = []) ∧
        (s.hos.state = .sending → u.hos.window ≠ [] → u.hos.ackTimer = some 20) ∧ u.hos.test = s.hos.test ∧
        (∀ k : Nat, s.hos.next = some k → (s.hos.state = .held → u.hos.next = some (max k (n + 1))) ∧
          (s.hos.state = .sending → Hands { b with oldest := n + 1 } (max k (n + 1)) { s with sent := [], hos := { s.hos with
            batch := some { b with oldest := n + 1 }, window := s.hos.window.filter (fun w => n < w.1)
            next := some (max k (n + 1))
            ackTimer := if s.hos.window.filter (fun w => n < w.1) = [] then none else some 20 } } u)) ∧
        u = { s with sent := u.sent, hos := u.hos }) ∧
      ∀ count : Nat, (s.hos.window.lookup n).getD 0 = count → (n, count) ∈ s.hos.window →
        (3 ≤ count → ∃ u, exec (.nak n) s = .next u ∧
          SuspendedFor .timeout (.block n true) { b with oldest := n } s u ∧
          u = { s with sent := [], hos := u.hos, hlc := u.hlc }) ∧
        (count < 3 → ∃ u, exec (.nak n) s = .next u ∧ u.hos.state = s.hos.state ∧
          u.hos.batch = some { b with oldest := n } ∧ u.hos.window.lookup n = some (count + 1) ∧
          (∀ w ∈ u.hos.window, n ≤ w.1) ∧
          (s.hos.state = .held → u.hos.next = some n ∧ u.hos.ackTimer = s.hos.ackTimer ∧ u.sent = []) ∧
          (s.hos.state = .sending → u.hos.ackTimer = some 20 ∧ ∀ (r : CutRecord) (d : DayRecord),
            s.dju.cutRecord = some r → s.dju.day = some d → n ≤ b.blocks →
            ∃ body, u.sent.head? = some (.block { branch := d.branch, day := r.day, number := n, body := body }) ∧
              BodyIs r (s.dju.journal.filter fun e => e.day = r.day) n body) ∧
          (s.hos.state = .sending → Hands { b with oldest := n } n { s with sent := [], hos := { s.hos with
            batch := some { b with oldest := n }, next := some n, ackTimer := some 20, holdTimer := none
            window := (s.hos.window.filter fun w => n ≤ w.1).map fun w => if w.1 = n then (n, w.2 + 1) else w } } u) ∧
          (s.hos.state = .held → u.hos.window =
            (s.hos.window.filter fun w => n ≤ w.1).map fun w => if w.1 = n then (n, w.2 + 1) else w) ∧
          u.hos.test = s.hos.test ∧ u = { s with sent := u.sent, hos := u.hos }))

/-- R168, R177, R180 to R182, R200: HOLD and GO, REJECT, the run-outs of the ack and hold timers, and the carrier; GO and an ack
run-out hand the whole window to the link again (R169 to R171, the printed flag as log 24 reads it). In every other state, IDLE
among them, HOLD, GO and REJECT change nothing and the carrier events the pin alone. That a run-out acts alone, with one second
left, is the model's choice (log 3); that the carrier input follows its pin on a part that is off or held in RESET is the model's
reading (log 9). -/
def Obligations.HoldsRejectsRunOutsAndCarrier : Prop :=
  (∀ s : State, (s.hos.state ≠ .sending → Discards .hold s) ∧ (s.hos.state ≠ .held → Discards .go s) ∧
    (s.hos.state ≠ .sending → s.hos.state ≠ .held → ∀ code : Nat, Discards (.reject code) s) ∧
    (s.live = false ∨ s.pins.carrier = false ∨ s.hos.state ≠ .testing ∧ s.hos.state ≠ .sending ∧ s.hos.state ≠ .held →
      exec .carrierLoss s = .next { s with sent := [], pins := { s.pins with carrier := false } }) ∧
    (s.live = false ∨ s.pins.carrier = true ∨ s.hos.state ≠ .ready ∨ s.hos.autoStart = false →
      exec .carrierArrival s = .next { s with sent := [], pins := { s.pins with carrier := true } })) ∧
  ∀ (s : State) (b : Batch), s.live = true → s.hos.batch = some b →
    (s.hos.state = .sending → exec .hold s = .next { s with
      sent := [], hos := { s.hos with state := .held, ackTimer := none, holdTimer := some 600 } }) ∧
    (s.hos.state = .held → ∃ u, exec .go s = .next u ∧ u.hos.state = .sending ∧ u.hos.holdTimer = none ∧
      u.hos.ackTimer = some 20 ∧ u.hos.batch = some b ∧ (∀ w ∈ s.hos.window, w ∈ u.hos.window) ∧
      Hands b b.oldest { s with sent := [], hos := { s.hos with
        state := .sending, holdTimer := none, next := some b.oldest, ackTimer := some 20 } } u ∧
      u.hos.test = s.hos.test ∧ u = { s with sent := u.sent, hos := u.hos }) ∧
    (∀ code : Nat, s.hos.state = .sending ∨ s.hos.state = .held →
      ∃ u, exec (.reject code) s = .next u ∧ SuspendedFor (.rejected code) (.code code) b s u ∧
        u = { s with sent := [], hos := u.hos, hlc := u.hlc }) ∧
    (∀ (n count : Nat) (rest : List (Nat × Nat)), s.hos.state = .sending → s.hos.ackTimer = some 1 →
      s.hos.window = (n, count) :: rest →
      (count < 3 → ∃ u, exec .ackTimeout s = .next u ∧ u.hos.state = .sending ∧ u.hos.ackTimer = some 20 ∧
        u.hos.batch = some b ∧ u.hos.window.head? = some (n, count + 1) ∧ u.hos.test = s.hos.test ∧
        Hands b b.oldest { s with sent := [], hos := { s.hos with
          holdTimer := none, next := some b.oldest, ackTimer := some 20
          window := s.hos.window.map fun w => if w.1 = n then (n, w.2 + 1) else w } } u ∧
        u = { s with sent := u.sent, hos := u.hos }) ∧
      (3 ≤ count → ∃ u, exec .ackTimeout s = .next u ∧ SuspendedFor .timeout (.block n false) b s u ∧
        u = { s with sent := [], hos := u.hos, hlc := u.hlc })) ∧
    (s.hos.state = .held → s.hos.holdTimer = some 1 → ∃ u, exec .holdTimeout s = .next u ∧
      SuspendedFor .holdLimit .nothing b s u ∧ u = { s with sent := [], hos := u.hos, hlc := u.hlc }) ∧
    (s.pins.carrier = true → (s.hos.state = .testing ∨ s.hos.state = .sending ∨ s.hos.state = .held) →
      ∃ u, exec .carrierLoss s = .next u ∧ SuspendedFor .carrier .nothing b s u ∧
        u = { s with sent := [], pins := { s.pins with carrier := false }, hos := u.hos, hlc := u.hlc }) ∧
    (s.pins.carrier = false → s.hos.state = .ready → s.hos.autoStart = true → ∃ u, exec .carrierArrival s = .next u ∧
      TestingFor b s u ∧ u = { s with
        sent := [.test u.hos.test.chars], pins := { s.pins with carrier := true }, hos := u.hos })

/-! ### The host link (R188, R189, R192, R203) -/

/-- R192: READ NOTICES takes the oldest notices, as many as the maximum allows and as fit whole, and clears the overflow
flag. That a list has a count beside the number returned, and so the room for the notices, is the model's choice (R202,
log 15). -/
def Obligations.ReadNoticesTakesTheOldest : Prop :=
  ∀ (s : State) (tag maximum : Nat) (queue : List Raised), s.listening = true → 1 ≤ maximum → maximum ≤ 8 →
    queue = s.hlc.notices →
    ∃ n : Nat, exec (.readNotices ⟨tag, some ⟨maximum⟩⟩) s = .next { s with
        hlc := { s.hlc with notices := queue.drop n, overflow := false }
        sent := [replyTo 0x60 tag .ok ([.num 1 n] ++ (queue.take n).map Item.notice ++
          [.num 1 n, .num 1 (queue.length - n), flag s.hlc.overflow])] } ∧
      n ≤ maximum ∧ n ≤ queue.length ∧ ((queue.take n).map Raised.size).sum + 4 ≤ 511 ∧
      (n < maximum → n < queue.length → 511 < ((queue.take (n + 1)).map Raised.size).sum + 4)

/-- R188, R189, R203: a damaged host frame is answered FRAME_ERROR under type 0xFF and tag 0, and an unlisted type
UNKNOWN_REQUEST under its type plus 0x80, or 0xFF above 0x7E; an abandoned frame and one that overruns are discarded
without a reply; a damaged frame or a gap on another link is as if no frame had come. That its row sets the receiver held for that
link hunting is the model's choice (log 20), and that a part without power or held in RESET takes no such event is the model's
reading (log 9). -/
def Obligations.DamagedFramesAreAnsweredOrDiscarded : Prop :=
  ∀ s : State,
    (s.listening = true → exec .hostFrameError s = .next { s with
      sent := [.reply { type := 0xFF, tag := 0, status := .frameError, items := [] }] }) ∧
    (∀ type tag : Nat, s.listening = true → exec (.unknownRequest type tag) s = .next { s with
      sent := [.reply { type := if type ≤ 0x7E then type + 0x80 else 0xFF, tag := tag, status := .unknownRequest,
                        items := [] }] }) ∧
    (s.live = true → exec .hostFrameTimeout s = .next { s with sent := [], hlc := { s.hlc with receive := .hunting } } ∧
      exec .hostFrameOverrun s = .next { s with sent := [], hlc := { s.hlc with receive := .hunting } }) ∧
    ∀ (port : LinkPort) (c : Instr), c = .linkFrameDiscarded port ∨ c = .linkFrameGapTimeout port →
      (s.live = true → ∃ u, exec c s = .next u ∧ u.receiver port = .hunting ∧
        (∀ x : LinkPort, x ≠ port → u.receiver x = s.receiver x) ∧ u = { s with sent := [], links := u.links }) ∧
      (s.live = false → exec c s = .next { s with sent := [] })
end

