-- ==== Sys2Proof/Laws/State.lean ====
section
/-! SUPPORT. The records an update leaves alone, field by field, and what it puts into the one it writes. -/

namespace Sys2Proof.Machine.State

open Sys2Proof

@[simp] theorem quiet_pending (s : State) : (s.quiet).pending = s.pending := rfl
@[simp] theorem quiet_ticks (s : State) : (s.quiet).ticks = s.ticks := rfl
@[simp] theorem quiet_pins (s : State) : (s.quiet).pins = s.pins := rfl
@[simp] theorem quiet_links (s : State) : (s.quiet).links = s.links := rfl
@[simp] theorem quiet_rcm (s : State) : (s.quiet).rcm = s.rcm := rfl
@[simp] theorem quiet_hlc (s : State) : (s.quiet).hlc = s.hlc := rfl
@[simp] theorem quiet_dju (s : State) : (s.quiet).dju = s.dju := rfl
@[simp] theorem quiet_tlu (s : State) : (s.quiet).tlu = s.tlu := rfl
@[simp] theorem quiet_lmu (s : State) : (s.quiet).lmu = s.lmu := rfl
@[simp] theorem quiet_stu (s : State) : (s.quiet).stu = s.stu := rfl
@[simp] theorem quiet_slc (s : State) : (s.quiet).slc = s.slc := rfl
@[simp] theorem quiet_prc (s : State) : (s.quiet).prc = s.prc := rfl
@[simp] theorem quiet_pjq (s : State) : (s.quiet).pjq = s.pjq := rfl
@[simp] theorem quiet_cut (s : State) : (s.quiet).cut = s.cut := rfl
@[simp] theorem quiet_hos (s : State) : (s.quiet).hos = s.hos := rfl

@[simp] theorem emit_pending (s : State) (x : Sent) : (s.emit x).pending = s.pending := rfl
@[simp] theorem emit_ticks (s : State) (x : Sent) : (s.emit x).ticks = s.ticks := rfl
@[simp] theorem emit_pins (s : State) (x : Sent) : (s.emit x).pins = s.pins := rfl
@[simp] theorem emit_links (s : State) (x : Sent) : (s.emit x).links = s.links := rfl
@[simp] theorem emit_rcm (s : State) (x : Sent) : (s.emit x).rcm = s.rcm := rfl
@[simp] theorem emit_hlc (s : State) (x : Sent) : (s.emit x).hlc = s.hlc := rfl
@[simp] theorem emit_dju (s : State) (x : Sent) : (s.emit x).dju = s.dju := rfl
@[simp] theorem emit_tlu (s : State) (x : Sent) : (s.emit x).tlu = s.tlu := rfl
@[simp] theorem emit_lmu (s : State) (x : Sent) : (s.emit x).lmu = s.lmu := rfl
@[simp] theorem emit_stu (s : State) (x : Sent) : (s.emit x).stu = s.stu := rfl
@[simp] theorem emit_slc (s : State) (x : Sent) : (s.emit x).slc = s.slc := rfl
@[simp] theorem emit_prc (s : State) (x : Sent) : (s.emit x).prc = s.prc := rfl
@[simp] theorem emit_pjq (s : State) (x : Sent) : (s.emit x).pjq = s.pjq := rfl
@[simp] theorem emit_cut (s : State) (x : Sent) : (s.emit x).cut = s.cut := rfl
@[simp] theorem emit_hos (s : State) (x : Sent) : (s.emit x).hos = s.hos := rfl

@[simp] theorem emitTo_pending (s : State) (p : Printer) (m : PrinterMessage) : (s.emitTo p m).pending = s.pending := rfl
@[simp] theorem emitTo_ticks (s : State) (p : Printer) (m : PrinterMessage) : (s.emitTo p m).ticks = s.ticks := rfl
@[simp] theorem emitTo_pins (s : State) (p : Printer) (m : PrinterMessage) : (s.emitTo p m).pins = s.pins := rfl
@[simp] theorem emitTo_links (s : State) (p : Printer) (m : PrinterMessage) : (s.emitTo p m).links = s.links := rfl
@[simp] theorem emitTo_rcm (s : State) (p : Printer) (m : PrinterMessage) : (s.emitTo p m).rcm = s.rcm := rfl
@[simp] theorem emitTo_hlc (s : State) (p : Printer) (m : PrinterMessage) : (s.emitTo p m).hlc = s.hlc := rfl
@[simp] theorem emitTo_dju (s : State) (p : Printer) (m : PrinterMessage) : (s.emitTo p m).dju = s.dju := rfl
@[simp] theorem emitTo_tlu (s : State) (p : Printer) (m : PrinterMessage) : (s.emitTo p m).tlu = s.tlu := rfl
@[simp] theorem emitTo_lmu (s : State) (p : Printer) (m : PrinterMessage) : (s.emitTo p m).lmu = s.lmu := rfl
@[simp] theorem emitTo_stu (s : State) (p : Printer) (m : PrinterMessage) : (s.emitTo p m).stu = s.stu := rfl
@[simp] theorem emitTo_slc (s : State) (p : Printer) (m : PrinterMessage) : (s.emitTo p m).slc = s.slc := rfl
@[simp] theorem emitTo_prc (s : State) (p : Printer) (m : PrinterMessage) : (s.emitTo p m).prc = s.prc := rfl
@[simp] theorem emitTo_pjq (s : State) (p : Printer) (m : PrinterMessage) : (s.emitTo p m).pjq = s.pjq := rfl
@[simp] theorem emitTo_cut (s : State) (p : Printer) (m : PrinterMessage) : (s.emitTo p m).cut = s.cut := rfl
@[simp] theorem emitTo_hos (s : State) (p : Printer) (m : PrinterMessage) : (s.emitTo p m).hos = s.hos := rfl

@[simp] theorem setTill_pending (s : State) (t : Till) (r : TillRec) : (s.setTill t r).pending = s.pending := rfl
@[simp] theorem setTill_sent (s : State) (t : Till) (r : TillRec) : (s.setTill t r).sent = s.sent := rfl
@[simp] theorem setTill_ticks (s : State) (t : Till) (r : TillRec) : (s.setTill t r).ticks = s.ticks := rfl
@[simp] theorem setTill_pins (s : State) (t : Till) (r : TillRec) : (s.setTill t r).pins = s.pins := rfl
@[simp] theorem setTill_links (s : State) (t : Till) (r : TillRec) : (s.setTill t r).links = s.links := rfl
@[simp] theorem setTill_rcm (s : State) (t : Till) (r : TillRec) : (s.setTill t r).rcm = s.rcm := rfl
@[simp] theorem setTill_hlc (s : State) (t : Till) (r : TillRec) : (s.setTill t r).hlc = s.hlc := rfl
@[simp] theorem setTill_dju (s : State) (t : Till) (r : TillRec) : (s.setTill t r).dju = s.dju := rfl
@[simp] theorem setTill_lmu (s : State) (t : Till) (r : TillRec) : (s.setTill t r).lmu = s.lmu := rfl
@[simp] theorem setTill_stu (s : State) (t : Till) (r : TillRec) : (s.setTill t r).stu = s.stu := rfl
@[simp] theorem setTill_slc (s : State) (t : Till) (r : TillRec) : (s.setTill t r).slc = s.slc := rfl
@[simp] theorem setTill_prc (s : State) (t : Till) (r : TillRec) : (s.setTill t r).prc = s.prc := rfl
@[simp] theorem setTill_pjq (s : State) (t : Till) (r : TillRec) : (s.setTill t r).pjq = s.pjq := rfl
@[simp] theorem setTill_cut (s : State) (t : Till) (r : TillRec) : (s.setTill t r).cut = s.cut := rfl
@[simp] theorem setTill_hos (s : State) (t : Till) (r : TillRec) : (s.setTill t r).hos = s.hos := rfl

@[simp] theorem setTransfers_pending (s : State) (ts : List Transfer) : (s.setTransfers ts).pending = s.pending := rfl
@[simp] theorem setTransfers_sent (s : State) (ts : List Transfer) : (s.setTransfers ts).sent = s.sent := rfl
@[simp] theorem setTransfers_ticks (s : State) (ts : List Transfer) : (s.setTransfers ts).ticks = s.ticks := rfl
@[simp] theorem setTransfers_pins (s : State) (ts : List Transfer) : (s.setTransfers ts).pins = s.pins := rfl
@[simp] theorem setTransfers_links (s : State) (ts : List Transfer) : (s.setTransfers ts).links = s.links := rfl
@[simp] theorem setTransfers_rcm (s : State) (ts : List Transfer) : (s.setTransfers ts).rcm = s.rcm := rfl
@[simp] theorem setTransfers_hlc (s : State) (ts : List Transfer) : (s.setTransfers ts).hlc = s.hlc := rfl
@[simp] theorem setTransfers_dju (s : State) (ts : List Transfer) : (s.setTransfers ts).dju = s.dju := rfl
@[simp] theorem setTransfers_lmu (s : State) (ts : List Transfer) : (s.setTransfers ts).lmu = s.lmu := rfl
@[simp] theorem setTransfers_stu (s : State) (ts : List Transfer) : (s.setTransfers ts).stu = s.stu := rfl
@[simp] theorem setTransfers_slc (s : State) (ts : List Transfer) : (s.setTransfers ts).slc = s.slc := rfl
@[simp] theorem setTransfers_prc (s : State) (ts : List Transfer) : (s.setTransfers ts).prc = s.prc := rfl
@[simp] theorem setTransfers_pjq (s : State) (ts : List Transfer) : (s.setTransfers ts).pjq = s.pjq := rfl
@[simp] theorem setTransfers_cut (s : State) (ts : List Transfer) : (s.setTransfers ts).cut = s.cut := rfl
@[simp] theorem setTransfers_hos (s : State) (ts : List Transfer) : (s.setTransfers ts).hos = s.hos := rfl

@[simp] theorem setCounts_pending (s : State) (t : Till) (c : Counts) : (s.setCounts t c).pending = s.pending := rfl
@[simp] theorem setCounts_sent (s : State) (t : Till) (c : Counts) : (s.setCounts t c).sent = s.sent := rfl
@[simp] theorem setCounts_ticks (s : State) (t : Till) (c : Counts) : (s.setCounts t c).ticks = s.ticks := rfl
@[simp] theorem setCounts_pins (s : State) (t : Till) (c : Counts) : (s.setCounts t c).pins = s.pins := rfl
@[simp] theorem setCounts_links (s : State) (t : Till) (c : Counts) : (s.setCounts t c).links = s.links := rfl
@[simp] theorem setCounts_rcm (s : State) (t : Till) (c : Counts) : (s.setCounts t c).rcm = s.rcm := rfl
@[simp] theorem setCounts_hlc (s : State) (t : Till) (c : Counts) : (s.setCounts t c).hlc = s.hlc := rfl
@[simp] theorem setCounts_dju (s : State) (t : Till) (c : Counts) : (s.setCounts t c).dju = s.dju := rfl
@[simp] theorem setCounts_lmu (s : State) (t : Till) (c : Counts) : (s.setCounts t c).lmu = s.lmu := rfl
@[simp] theorem setCounts_stu (s : State) (t : Till) (c : Counts) : (s.setCounts t c).stu = s.stu := rfl
@[simp] theorem setCounts_slc (s : State) (t : Till) (c : Counts) : (s.setCounts t c).slc = s.slc := rfl
@[simp] theorem setCounts_prc (s : State) (t : Till) (c : Counts) : (s.setCounts t c).prc = s.prc := rfl
@[simp] theorem setCounts_pjq (s : State) (t : Till) (c : Counts) : (s.setCounts t c).pjq = s.pjq := rfl
@[simp] theorem setCounts_cut (s : State) (t : Till) (c : Counts) : (s.setCounts t c).cut = s.cut := rfl
@[simp] theorem setCounts_hos (s : State) (t : Till) (c : Counts) : (s.setCounts t c).hos = s.hos := rfl

@[simp] theorem setMonitor_pending (s : State) (t : Till) (m : Monitor) : (s.setMonitor t m).pending = s.pending := rfl
@[simp] theorem setMonitor_sent (s : State) (t : Till) (m : Monitor) : (s.setMonitor t m).sent = s.sent := rfl
@[simp] theorem setMonitor_ticks (s : State) (t : Till) (m : Monitor) : (s.setMonitor t m).ticks = s.ticks := rfl
@[simp] theorem setMonitor_pins (s : State) (t : Till) (m : Monitor) : (s.setMonitor t m).pins = s.pins := rfl
@[simp] theorem setMonitor_links (s : State) (t : Till) (m : Monitor) : (s.setMonitor t m).links = s.links := rfl
@[simp] theorem setMonitor_rcm (s : State) (t : Till) (m : Monitor) : (s.setMonitor t m).rcm = s.rcm := rfl
@[simp] theorem setMonitor_hlc (s : State) (t : Till) (m : Monitor) : (s.setMonitor t m).hlc = s.hlc := rfl
@[simp] theorem setMonitor_dju (s : State) (t : Till) (m : Monitor) : (s.setMonitor t m).dju = s.dju := rfl
@[simp] theorem setMonitor_tlu (s : State) (t : Till) (m : Monitor) : (s.setMonitor t m).tlu = s.tlu := rfl
@[simp] theorem setMonitor_stu (s : State) (t : Till) (m : Monitor) : (s.setMonitor t m).stu = s.stu := rfl
@[simp] theorem setMonitor_slc (s : State) (t : Till) (m : Monitor) : (s.setMonitor t m).slc = s.slc := rfl
@[simp] theorem setMonitor_prc (s : State) (t : Till) (m : Monitor) : (s.setMonitor t m).prc = s.prc := rfl
@[simp] theorem setMonitor_pjq (s : State) (t : Till) (m : Monitor) : (s.setMonitor t m).pjq = s.pjq := rfl
@[simp] theorem setMonitor_cut (s : State) (t : Till) (m : Monitor) : (s.setMonitor t m).cut = s.cut := rfl
@[simp] theorem setMonitor_hos (s : State) (t : Till) (m : Monitor) : (s.setMonitor t m).hos = s.hos := rfl

@[simp] theorem setStation_pending (s : State) (st : Station) (r : StationRec) : (s.setStation st r).pending = s.pending := rfl
@[simp] theorem setStation_sent (s : State) (st : Station) (r : StationRec) : (s.setStation st r).sent = s.sent := rfl
@[simp] theorem setStation_ticks (s : State) (st : Station) (r : StationRec) : (s.setStation st r).ticks = s.ticks := rfl
@[simp] theorem setStation_pins (s : State) (st : Station) (r : StationRec) : (s.setStation st r).pins = s.pins := rfl
@[simp] theorem setStation_links (s : State) (st : Station) (r : StationRec) : (s.setStation st r).links = s.links := rfl
@[simp] theorem setStation_rcm (s : State) (st : Station) (r : StationRec) : (s.setStation st r).rcm = s.rcm := rfl
@[simp] theorem setStation_hlc (s : State) (st : Station) (r : StationRec) : (s.setStation st r).hlc = s.hlc := rfl
@[simp] theorem setStation_dju (s : State) (st : Station) (r : StationRec) : (s.setStation st r).dju = s.dju := rfl
@[simp] theorem setStation_tlu (s : State) (st : Station) (r : StationRec) : (s.setStation st r).tlu = s.tlu := rfl
@[simp] theorem setStation_lmu (s : State) (st : Station) (r : StationRec) : (s.setStation st r).lmu = s.lmu := rfl
@[simp] theorem setStation_slc (s : State) (st : Station) (r : StationRec) : (s.setStation st r).slc = s.slc := rfl
@[simp] theorem setStation_prc (s : State) (st : Station) (r : StationRec) : (s.setStation st r).prc = s.prc := rfl
@[simp] theorem setStation_pjq (s : State) (st : Station) (r : StationRec) : (s.setStation st r).pjq = s.pjq := rfl
@[simp] theorem setStation_cut (s : State) (st : Station) (r : StationRec) : (s.setStation st r).cut = s.cut := rfl
@[simp] theorem setStation_hos (s : State) (st : Station) (r : StationRec) : (s.setStation st r).hos = s.hos := rfl

@[simp] theorem setPresence_pending (s : State) (st : Station) (p : Presence) : (s.setPresence st p).pending = s.pending := rfl
@[simp] theorem setPresence_sent (s : State) (st : Station) (p : Presence) : (s.setPresence st p).sent = s.sent := rfl
@[simp] theorem setPresence_ticks (s : State) (st : Station) (p : Presence) : (s.setPresence st p).ticks = s.ticks := rfl
@[simp] theorem setPresence_pins (s : State) (st : Station) (p : Presence) : (s.setPresence st p).pins = s.pins := rfl
@[simp] theorem setPresence_links (s : State) (st : Station) (p : Presence) : (s.setPresence st p).links = s.links := rfl
@[simp] theorem setPresence_rcm (s : State) (st : Station) (p : Presence) : (s.setPresence st p).rcm = s.rcm := rfl
@[simp] theorem setPresence_hlc (s : State) (st : Station) (p : Presence) : (s.setPresence st p).hlc = s.hlc := rfl
@[simp] theorem setPresence_dju (s : State) (st : Station) (p : Presence) : (s.setPresence st p).dju = s.dju := rfl
@[simp] theorem setPresence_tlu (s : State) (st : Station) (p : Presence) : (s.setPresence st p).tlu = s.tlu := rfl
@[simp] theorem setPresence_lmu (s : State) (st : Station) (p : Presence) : (s.setPresence st p).lmu = s.lmu := rfl
@[simp] theorem setPresence_slc (s : State) (st : Station) (p : Presence) : (s.setPresence st p).slc = s.slc := rfl
@[simp] theorem setPresence_prc (s : State) (st : Station) (p : Presence) : (s.setPresence st p).prc = s.prc := rfl
@[simp] theorem setPresence_pjq (s : State) (st : Station) (p : Presence) : (s.setPresence st p).pjq = s.pjq := rfl
@[simp] theorem setPresence_cut (s : State) (st : Station) (p : Presence) : (s.setPresence st p).cut = s.cut := rfl
@[simp] theorem setPresence_hos (s : State) (st : Station) (p : Presence) : (s.setPresence st p).hos = s.hos := rfl

@[simp] theorem setLine_pending (s : State) (st : Station) (l : LineRec) : (s.setLine st l).pending = s.pending := rfl
@[simp] theorem setLine_sent (s : State) (st : Station) (l : LineRec) : (s.setLine st l).sent = s.sent := rfl
@[simp] theorem setLine_ticks (s : State) (st : Station) (l : LineRec) : (s.setLine st l).ticks = s.ticks := rfl
@[simp] theorem setLine_pins (s : State) (st : Station) (l : LineRec) : (s.setLine st l).pins = s.pins := rfl
@[simp] theorem setLine_links (s : State) (st : Station) (l : LineRec) : (s.setLine st l).links = s.links := rfl
@[simp] theorem setLine_rcm (s : State) (st : Station) (l : LineRec) : (s.setLine st l).rcm = s.rcm := rfl
@[simp] theorem setLine_hlc (s : State) (st : Station) (l : LineRec) : (s.setLine st l).hlc = s.hlc := rfl
@[simp] theorem setLine_dju (s : State) (st : Station) (l : LineRec) : (s.setLine st l).dju = s.dju := rfl
@[simp] theorem setLine_tlu (s : State) (st : Station) (l : LineRec) : (s.setLine st l).tlu = s.tlu := rfl
@[simp] theorem setLine_lmu (s : State) (st : Station) (l : LineRec) : (s.setLine st l).lmu = s.lmu := rfl
@[simp] theorem setLine_stu (s : State) (st : Station) (l : LineRec) : (s.setLine st l).stu = s.stu := rfl
@[simp] theorem setLine_prc (s : State) (st : Station) (l : LineRec) : (s.setLine st l).prc = s.prc := rfl
@[simp] theorem setLine_pjq (s : State) (st : Station) (l : LineRec) : (s.setLine st l).pjq = s.pjq := rfl
@[simp] theorem setLine_cut (s : State) (st : Station) (l : LineRec) : (s.setLine st l).cut = s.cut := rfl
@[simp] theorem setLine_hos (s : State) (st : Station) (l : LineRec) : (s.setLine st l).hos = s.hos := rfl

@[simp] theorem setTest_pending (s : State) (st : Station) (t : LineTest) : (s.setTest st t).pending = s.pending := rfl
@[simp] theorem setTest_sent (s : State) (st : Station) (t : LineTest) : (s.setTest st t).sent = s.sent := rfl
@[simp] theorem setTest_ticks (s : State) (st : Station) (t : LineTest) : (s.setTest st t).ticks = s.ticks := rfl
@[simp] theorem setTest_pins (s : State) (st : Station) (t : LineTest) : (s.setTest st t).pins = s.pins := rfl
@[simp] theorem setTest_links (s : State) (st : Station) (t : LineTest) : (s.setTest st t).links = s.links := rfl
@[simp] theorem setTest_rcm (s : State) (st : Station) (t : LineTest) : (s.setTest st t).rcm = s.rcm := rfl
@[simp] theorem setTest_hlc (s : State) (st : Station) (t : LineTest) : (s.setTest st t).hlc = s.hlc := rfl
@[simp] theorem setTest_dju (s : State) (st : Station) (t : LineTest) : (s.setTest st t).dju = s.dju := rfl
@[simp] theorem setTest_tlu (s : State) (st : Station) (t : LineTest) : (s.setTest st t).tlu = s.tlu := rfl
@[simp] theorem setTest_lmu (s : State) (st : Station) (t : LineTest) : (s.setTest st t).lmu = s.lmu := rfl
@[simp] theorem setTest_stu (s : State) (st : Station) (t : LineTest) : (s.setTest st t).stu = s.stu := rfl
@[simp] theorem setTest_prc (s : State) (st : Station) (t : LineTest) : (s.setTest st t).prc = s.prc := rfl
@[simp] theorem setTest_pjq (s : State) (st : Station) (t : LineTest) : (s.setTest st t).pjq = s.pjq := rfl
@[simp] theorem setTest_cut (s : State) (st : Station) (t : LineTest) : (s.setTest st t).cut = s.cut := rfl
@[simp] theorem setTest_hos (s : State) (st : Station) (t : LineTest) : (s.setTest st t).hos = s.hos := rfl

@[simp] theorem setPrinter_pending (s : State) (p : Printer) (r : PrinterRec) : (s.setPrinter p r).pending = s.pending := rfl
@[simp] theorem setPrinter_sent (s : State) (p : Printer) (r : PrinterRec) : (s.setPrinter p r).sent = s.sent := rfl
@[simp] theorem setPrinter_ticks (s : State) (p : Printer) (r : PrinterRec) : (s.setPrinter p r).ticks = s.ticks := rfl
@[simp] theorem setPrinter_pins (s : State) (p : Printer) (r : PrinterRec) : (s.setPrinter p r).pins = s.pins := rfl
@[simp] theorem setPrinter_links (s : State) (p : Printer) (r : PrinterRec) : (s.setPrinter p r).links = s.links := rfl
@[simp] theorem setPrinter_rcm (s : State) (p : Printer) (r : PrinterRec) : (s.setPrinter p r).rcm = s.rcm := rfl
@[simp] theorem setPrinter_hlc (s : State) (p : Printer) (r : PrinterRec) : (s.setPrinter p r).hlc = s.hlc := rfl
@[simp] theorem setPrinter_dju (s : State) (p : Printer) (r : PrinterRec) : (s.setPrinter p r).dju = s.dju := rfl
@[simp] theorem setPrinter_tlu (s : State) (p : Printer) (r : PrinterRec) : (s.setPrinter p r).tlu = s.tlu := rfl
@[simp] theorem setPrinter_lmu (s : State) (p : Printer) (r : PrinterRec) : (s.setPrinter p r).lmu = s.lmu := rfl
@[simp] theorem setPrinter_stu (s : State) (p : Printer) (r : PrinterRec) : (s.setPrinter p r).stu = s.stu := rfl
@[simp] theorem setPrinter_slc (s : State) (p : Printer) (r : PrinterRec) : (s.setPrinter p r).slc = s.slc := rfl
@[simp] theorem setPrinter_pjq (s : State) (p : Printer) (r : PrinterRec) : (s.setPrinter p r).pjq = s.pjq := rfl
@[simp] theorem setPrinter_cut (s : State) (p : Printer) (r : PrinterRec) : (s.setPrinter p r).cut = s.cut := rfl
@[simp] theorem setPrinter_hos (s : State) (p : Printer) (r : PrinterRec) : (s.setPrinter p r).hos = s.hos := rfl

@[simp] theorem setDevice_pending (s : State) (p : Printer) (d : Device) : (s.setDevice p d).pending = s.pending := rfl
@[simp] theorem setDevice_sent (s : State) (p : Printer) (d : Device) : (s.setDevice p d).sent = s.sent := rfl
@[simp] theorem setDevice_ticks (s : State) (p : Printer) (d : Device) : (s.setDevice p d).ticks = s.ticks := rfl
@[simp] theorem setDevice_pins (s : State) (p : Printer) (d : Device) : (s.setDevice p d).pins = s.pins := rfl
@[simp] theorem setDevice_links (s : State) (p : Printer) (d : Device) : (s.setDevice p d).links = s.links := rfl
@[simp] theorem setDevice_rcm (s : State) (p : Printer) (d : Device) : (s.setDevice p d).rcm = s.rcm := rfl
@[simp] theorem setDevice_hlc (s : State) (p : Printer) (d : Device) : (s.setDevice p d).hlc = s.hlc := rfl
@[simp] theorem setDevice_dju (s : State) (p : Printer) (d : Device) : (s.setDevice p d).dju = s.dju := rfl
@[simp] theorem setDevice_tlu (s : State) (p : Printer) (d : Device) : (s.setDevice p d).tlu = s.tlu := rfl
@[simp] theorem setDevice_lmu (s : State) (p : Printer) (d : Device) : (s.setDevice p d).lmu = s.lmu := rfl
@[simp] theorem setDevice_stu (s : State) (p : Printer) (d : Device) : (s.setDevice p d).stu = s.stu := rfl
@[simp] theorem setDevice_slc (s : State) (p : Printer) (d : Device) : (s.setDevice p d).slc = s.slc := rfl
@[simp] theorem setDevice_pjq (s : State) (p : Printer) (d : Device) : (s.setDevice p d).pjq = s.pjq := rfl
@[simp] theorem setDevice_cut (s : State) (p : Printer) (d : Device) : (s.setDevice p d).cut = s.cut := rfl
@[simp] theorem setDevice_hos (s : State) (p : Printer) (d : Device) : (s.setDevice p d).hos = s.hos := rfl

@[simp] theorem alive_pending (s : State) (p : Printer) : (s.alive p).pending = s.pending := rfl
@[simp] theorem alive_sent (s : State) (p : Printer) : (s.alive p).sent = s.sent := rfl
@[simp] theorem alive_ticks (s : State) (p : Printer) : (s.alive p).ticks = s.ticks := rfl
@[simp] theorem alive_pins (s : State) (p : Printer) : (s.alive p).pins = s.pins := rfl
@[simp] theorem alive_links (s : State) (p : Printer) : (s.alive p).links = s.links := rfl
@[simp] theorem alive_rcm (s : State) (p : Printer) : (s.alive p).rcm = s.rcm := rfl
@[simp] theorem alive_hlc (s : State) (p : Printer) : (s.alive p).hlc = s.hlc := rfl
@[simp] theorem alive_dju (s : State) (p : Printer) : (s.alive p).dju = s.dju := rfl
@[simp] theorem alive_tlu (s : State) (p : Printer) : (s.alive p).tlu = s.tlu := rfl
@[simp] theorem alive_lmu (s : State) (p : Printer) : (s.alive p).lmu = s.lmu := rfl
@[simp] theorem alive_stu (s : State) (p : Printer) : (s.alive p).stu = s.stu := rfl
@[simp] theorem alive_slc (s : State) (p : Printer) : (s.alive p).slc = s.slc := rfl
@[simp] theorem alive_pjq (s : State) (p : Printer) : (s.alive p).pjq = s.pjq := rfl
@[simp] theorem alive_cut (s : State) (p : Printer) : (s.alive p).cut = s.cut := rfl
@[simp] theorem alive_hos (s : State) (p : Printer) : (s.alive p).hos = s.hos := rfl

@[simp] theorem setJobs_pending (s : State) (js : List Job) : (s.setJobs js).pending = s.pending := rfl
@[simp] theorem setJobs_sent (s : State) (js : List Job) : (s.setJobs js).sent = s.sent := rfl
@[simp] theorem setJobs_ticks (s : State) (js : List Job) : (s.setJobs js).ticks = s.ticks := rfl
@[simp] theorem setJobs_pins (s : State) (js : List Job) : (s.setJobs js).pins = s.pins := rfl
@[simp] theorem setJobs_links (s : State) (js : List Job) : (s.setJobs js).links = s.links := rfl
@[simp] theorem setJobs_rcm (s : State) (js : List Job) : (s.setJobs js).rcm = s.rcm := rfl
@[simp] theorem setJobs_hlc (s : State) (js : List Job) : (s.setJobs js).hlc = s.hlc := rfl
@[simp] theorem setJobs_dju (s : State) (js : List Job) : (s.setJobs js).dju = s.dju := rfl
@[simp] theorem setJobs_tlu (s : State) (js : List Job) : (s.setJobs js).tlu = s.tlu := rfl
@[simp] theorem setJobs_lmu (s : State) (js : List Job) : (s.setJobs js).lmu = s.lmu := rfl
@[simp] theorem setJobs_stu (s : State) (js : List Job) : (s.setJobs js).stu = s.stu := rfl
@[simp] theorem setJobs_slc (s : State) (js : List Job) : (s.setJobs js).slc = s.slc := rfl
@[simp] theorem setJobs_prc (s : State) (js : List Job) : (s.setJobs js).prc = s.prc := rfl
@[simp] theorem setJobs_cut (s : State) (js : List Job) : (s.setJobs js).cut = s.cut := rfl
@[simp] theorem setJobs_hos (s : State) (js : List Job) : (s.setJobs js).hos = s.hos := rfl

@[simp] theorem setJob_pending (s : State) (j : Job) : (s.setJob j).pending = s.pending := rfl
@[simp] theorem setJob_sent (s : State) (j : Job) : (s.setJob j).sent = s.sent := rfl
@[simp] theorem setJob_ticks (s : State) (j : Job) : (s.setJob j).ticks = s.ticks := rfl
@[simp] theorem setJob_pins (s : State) (j : Job) : (s.setJob j).pins = s.pins := rfl
@[simp] theorem setJob_links (s : State) (j : Job) : (s.setJob j).links = s.links := rfl
@[simp] theorem setJob_rcm (s : State) (j : Job) : (s.setJob j).rcm = s.rcm := rfl
@[simp] theorem setJob_hlc (s : State) (j : Job) : (s.setJob j).hlc = s.hlc := rfl
@[simp] theorem setJob_dju (s : State) (j : Job) : (s.setJob j).dju = s.dju := rfl
@[simp] theorem setJob_tlu (s : State) (j : Job) : (s.setJob j).tlu = s.tlu := rfl
@[simp] theorem setJob_lmu (s : State) (j : Job) : (s.setJob j).lmu = s.lmu := rfl
@[simp] theorem setJob_stu (s : State) (j : Job) : (s.setJob j).stu = s.stu := rfl
@[simp] theorem setJob_slc (s : State) (j : Job) : (s.setJob j).slc = s.slc := rfl
@[simp] theorem setJob_prc (s : State) (j : Job) : (s.setJob j).prc = s.prc := rfl
@[simp] theorem setJob_cut (s : State) (j : Job) : (s.setJob j).cut = s.cut := rfl
@[simp] theorem setJob_hos (s : State) (j : Job) : (s.setJob j).hos = s.hos := rfl

@[simp] theorem setEntry_pending (s : State) (q : Nat) (f : Entry → Entry) : (s.setEntry q f).pending = s.pending := rfl
@[simp] theorem setEntry_sent (s : State) (q : Nat) (f : Entry → Entry) : (s.setEntry q f).sent = s.sent := rfl
@[simp] theorem setEntry_ticks (s : State) (q : Nat) (f : Entry → Entry) : (s.setEntry q f).ticks = s.ticks := rfl
@[simp] theorem setEntry_pins (s : State) (q : Nat) (f : Entry → Entry) : (s.setEntry q f).pins = s.pins := rfl
@[simp] theorem setEntry_links (s : State) (q : Nat) (f : Entry → Entry) : (s.setEntry q f).links = s.links := rfl
@[simp] theorem setEntry_rcm (s : State) (q : Nat) (f : Entry → Entry) : (s.setEntry q f).rcm = s.rcm := rfl
@[simp] theorem setEntry_hlc (s : State) (q : Nat) (f : Entry → Entry) : (s.setEntry q f).hlc = s.hlc := rfl
@[simp] theorem setEntry_tlu (s : State) (q : Nat) (f : Entry → Entry) : (s.setEntry q f).tlu = s.tlu := rfl
@[simp] theorem setEntry_lmu (s : State) (q : Nat) (f : Entry → Entry) : (s.setEntry q f).lmu = s.lmu := rfl
@[simp] theorem setEntry_stu (s : State) (q : Nat) (f : Entry → Entry) : (s.setEntry q f).stu = s.stu := rfl
@[simp] theorem setEntry_slc (s : State) (q : Nat) (f : Entry → Entry) : (s.setEntry q f).slc = s.slc := rfl
@[simp] theorem setEntry_prc (s : State) (q : Nat) (f : Entry → Entry) : (s.setEntry q f).prc = s.prc := rfl
@[simp] theorem setEntry_pjq (s : State) (q : Nat) (f : Entry → Entry) : (s.setEntry q f).pjq = s.pjq := rfl
@[simp] theorem setEntry_cut (s : State) (q : Nat) (f : Entry → Entry) : (s.setEntry q f).cut = s.cut := rfl
@[simp] theorem setEntry_hos (s : State) (q : Nat) (f : Entry → Entry) : (s.setEntry q f).hos = s.hos := rfl

@[simp] theorem setPassbook_pending (s : State) (q : Nat) (p : Passbook) : (s.setPassbook q p).pending = s.pending := rfl
@[simp] theorem setPassbook_sent (s : State) (q : Nat) (p : Passbook) : (s.setPassbook q p).sent = s.sent := rfl
@[simp] theorem setPassbook_ticks (s : State) (q : Nat) (p : Passbook) : (s.setPassbook q p).ticks = s.ticks := rfl
@[simp] theorem setPassbook_pins (s : State) (q : Nat) (p : Passbook) : (s.setPassbook q p).pins = s.pins := rfl
@[simp] theorem setPassbook_links (s : State) (q : Nat) (p : Passbook) : (s.setPassbook q p).links = s.links := rfl
@[simp] theorem setPassbook_rcm (s : State) (q : Nat) (p : Passbook) : (s.setPassbook q p).rcm = s.rcm := rfl
@[simp] theorem setPassbook_hlc (s : State) (q : Nat) (p : Passbook) : (s.setPassbook q p).hlc = s.hlc := rfl
@[simp] theorem setPassbook_tlu (s : State) (q : Nat) (p : Passbook) : (s.setPassbook q p).tlu = s.tlu := rfl
@[simp] theorem setPassbook_lmu (s : State) (q : Nat) (p : Passbook) : (s.setPassbook q p).lmu = s.lmu := rfl
@[simp] theorem setPassbook_stu (s : State) (q : Nat) (p : Passbook) : (s.setPassbook q p).stu = s.stu := rfl
@[simp] theorem setPassbook_slc (s : State) (q : Nat) (p : Passbook) : (s.setPassbook q p).slc = s.slc := rfl
@[simp] theorem setPassbook_prc (s : State) (q : Nat) (p : Passbook) : (s.setPassbook q p).prc = s.prc := rfl
@[simp] theorem setPassbook_pjq (s : State) (q : Nat) (p : Passbook) : (s.setPassbook q p).pjq = s.pjq := rfl
@[simp] theorem setPassbook_cut (s : State) (q : Nat) (p : Passbook) : (s.setPassbook q p).cut = s.cut := rfl
@[simp] theorem setPassbook_hos (s : State) (q : Nat) (p : Passbook) : (s.setPassbook q p).hos = s.hos := rfl

@[simp] theorem freePassbook_pending (s : State) (q : Nat) : (s.freePassbook q).pending = s.pending := rfl
@[simp] theorem freePassbook_sent (s : State) (q : Nat) : (s.freePassbook q).sent = s.sent := rfl
@[simp] theorem freePassbook_ticks (s : State) (q : Nat) : (s.freePassbook q).ticks = s.ticks := rfl
@[simp] theorem freePassbook_pins (s : State) (q : Nat) : (s.freePassbook q).pins = s.pins := rfl
@[simp] theorem freePassbook_links (s : State) (q : Nat) : (s.freePassbook q).links = s.links := rfl
@[simp] theorem freePassbook_rcm (s : State) (q : Nat) : (s.freePassbook q).rcm = s.rcm := rfl
@[simp] theorem freePassbook_hlc (s : State) (q : Nat) : (s.freePassbook q).hlc = s.hlc := rfl
@[simp] theorem freePassbook_tlu (s : State) (q : Nat) : (s.freePassbook q).tlu = s.tlu := rfl
@[simp] theorem freePassbook_lmu (s : State) (q : Nat) : (s.freePassbook q).lmu = s.lmu := rfl
@[simp] theorem freePassbook_stu (s : State) (q : Nat) : (s.freePassbook q).stu = s.stu := rfl
@[simp] theorem freePassbook_slc (s : State) (q : Nat) : (s.freePassbook q).slc = s.slc := rfl
@[simp] theorem freePassbook_prc (s : State) (q : Nat) : (s.freePassbook q).prc = s.prc := rfl
@[simp] theorem freePassbook_pjq (s : State) (q : Nat) : (s.freePassbook q).pjq = s.pjq := rfl
@[simp] theorem freePassbook_cut (s : State) (q : Nat) : (s.freePassbook q).cut = s.cut := rfl
@[simp] theorem freePassbook_hos (s : State) (q : Nat) : (s.freePassbook q).hos = s.hos := rfl

@[simp] theorem skipLines_pending (s : State) (q : Nat) : (s.skipLines q).pending = s.pending := rfl
@[simp] theorem skipLines_sent (s : State) (q : Nat) : (s.skipLines q).sent = s.sent := rfl
@[simp] theorem skipLines_ticks (s : State) (q : Nat) : (s.skipLines q).ticks = s.ticks := rfl
@[simp] theorem skipLines_pins (s : State) (q : Nat) : (s.skipLines q).pins = s.pins := rfl
@[simp] theorem skipLines_links (s : State) (q : Nat) : (s.skipLines q).links = s.links := rfl
@[simp] theorem skipLines_rcm (s : State) (q : Nat) : (s.skipLines q).rcm = s.rcm := rfl
@[simp] theorem skipLines_hlc (s : State) (q : Nat) : (s.skipLines q).hlc = s.hlc := rfl
@[simp] theorem skipLines_dju (s : State) (q : Nat) : (s.skipLines q).dju = s.dju := rfl
@[simp] theorem skipLines_tlu (s : State) (q : Nat) : (s.skipLines q).tlu = s.tlu := rfl
@[simp] theorem skipLines_lmu (s : State) (q : Nat) : (s.skipLines q).lmu = s.lmu := rfl
@[simp] theorem skipLines_stu (s : State) (q : Nat) : (s.skipLines q).stu = s.stu := rfl
@[simp] theorem skipLines_slc (s : State) (q : Nat) : (s.skipLines q).slc = s.slc := rfl
@[simp] theorem skipLines_prc (s : State) (q : Nat) : (s.skipLines q).prc = s.prc := rfl
@[simp] theorem skipLines_cut (s : State) (q : Nat) : (s.skipLines q).cut = s.cut := rfl
@[simp] theorem skipLines_hos (s : State) (q : Nat) : (s.skipLines q).hos = s.hos := rfl

@[simp] theorem setHos_pending (s : State) (h : Hos) : (s.setHos h).pending = s.pending := rfl
@[simp] theorem setHos_sent (s : State) (h : Hos) : (s.setHos h).sent = s.sent := rfl
@[simp] theorem setHos_ticks (s : State) (h : Hos) : (s.setHos h).ticks = s.ticks := rfl
@[simp] theorem setHos_pins (s : State) (h : Hos) : (s.setHos h).pins = s.pins := rfl
@[simp] theorem setHos_links (s : State) (h : Hos) : (s.setHos h).links = s.links := rfl
@[simp] theorem setHos_rcm (s : State) (h : Hos) : (s.setHos h).rcm = s.rcm := rfl
@[simp] theorem setHos_hlc (s : State) (h : Hos) : (s.setHos h).hlc = s.hlc := rfl
@[simp] theorem setHos_dju (s : State) (h : Hos) : (s.setHos h).dju = s.dju := rfl
@[simp] theorem setHos_tlu (s : State) (h : Hos) : (s.setHos h).tlu = s.tlu := rfl
@[simp] theorem setHos_lmu (s : State) (h : Hos) : (s.setHos h).lmu = s.lmu := rfl
@[simp] theorem setHos_stu (s : State) (h : Hos) : (s.setHos h).stu = s.stu := rfl
@[simp] theorem setHos_slc (s : State) (h : Hos) : (s.setHos h).slc = s.slc := rfl
@[simp] theorem setHos_prc (s : State) (h : Hos) : (s.setHos h).prc = s.prc := rfl
@[simp] theorem setHos_pjq (s : State) (h : Hos) : (s.setHos h).pjq = s.pjq := rfl
@[simp] theorem setHos_cut (s : State) (h : Hos) : (s.setHos h).cut = s.cut := rfl

@[simp] theorem freeDay_pending (s : State) (d : Nat) : (s.freeDay d).pending = s.pending := rfl
@[simp] theorem freeDay_sent (s : State) (d : Nat) : (s.freeDay d).sent = s.sent := rfl
@[simp] theorem freeDay_ticks (s : State) (d : Nat) : (s.freeDay d).ticks = s.ticks := rfl
@[simp] theorem freeDay_pins (s : State) (d : Nat) : (s.freeDay d).pins = s.pins := rfl
@[simp] theorem freeDay_links (s : State) (d : Nat) : (s.freeDay d).links = s.links := rfl
@[simp] theorem freeDay_rcm (s : State) (d : Nat) : (s.freeDay d).rcm = s.rcm := rfl
@[simp] theorem freeDay_hlc (s : State) (d : Nat) : (s.freeDay d).hlc = s.hlc := rfl
@[simp] theorem freeDay_tlu (s : State) (d : Nat) : (s.freeDay d).tlu = s.tlu := rfl
@[simp] theorem freeDay_lmu (s : State) (d : Nat) : (s.freeDay d).lmu = s.lmu := rfl
@[simp] theorem freeDay_stu (s : State) (d : Nat) : (s.freeDay d).stu = s.stu := rfl
@[simp] theorem freeDay_slc (s : State) (d : Nat) : (s.freeDay d).slc = s.slc := rfl
@[simp] theorem freeDay_prc (s : State) (d : Nat) : (s.freeDay d).prc = s.prc := rfl
@[simp] theorem freeDay_pjq (s : State) (d : Nat) : (s.freeDay d).pjq = s.pjq := rfl
@[simp] theorem freeDay_cut (s : State) (d : Nat) : (s.freeDay d).cut = s.cut := rfl
@[simp] theorem freeDay_hos (s : State) (d : Nat) : (s.freeDay d).hos = s.hos := rfl

@[simp] theorem setCarrier_pending (s : State) (on : Bool) : (s.setCarrier on).pending = s.pending := rfl
@[simp] theorem setCarrier_sent (s : State) (on : Bool) : (s.setCarrier on).sent = s.sent := rfl
@[simp] theorem setCarrier_ticks (s : State) (on : Bool) : (s.setCarrier on).ticks = s.ticks := rfl
@[simp] theorem setCarrier_links (s : State) (on : Bool) : (s.setCarrier on).links = s.links := rfl
@[simp] theorem setCarrier_rcm (s : State) (on : Bool) : (s.setCarrier on).rcm = s.rcm := rfl
@[simp] theorem setCarrier_hlc (s : State) (on : Bool) : (s.setCarrier on).hlc = s.hlc := rfl
@[simp] theorem setCarrier_dju (s : State) (on : Bool) : (s.setCarrier on).dju = s.dju := rfl
@[simp] theorem setCarrier_tlu (s : State) (on : Bool) : (s.setCarrier on).tlu = s.tlu := rfl
@[simp] theorem setCarrier_lmu (s : State) (on : Bool) : (s.setCarrier on).lmu = s.lmu := rfl
@[simp] theorem setCarrier_stu (s : State) (on : Bool) : (s.setCarrier on).stu = s.stu := rfl
@[simp] theorem setCarrier_slc (s : State) (on : Bool) : (s.setCarrier on).slc = s.slc := rfl
@[simp] theorem setCarrier_prc (s : State) (on : Bool) : (s.setCarrier on).prc = s.prc := rfl
@[simp] theorem setCarrier_pjq (s : State) (on : Bool) : (s.setCarrier on).pjq = s.pjq := rfl
@[simp] theorem setCarrier_cut (s : State) (on : Bool) : (s.setCarrier on).cut = s.cut := rfl
@[simp] theorem setCarrier_hos (s : State) (on : Bool) : (s.setCarrier on).hos = s.hos := rfl

@[simp] theorem setPower_pending (s : State) (on : Bool) : (s.setPower on).pending = s.pending := rfl
@[simp] theorem setPower_sent (s : State) (on : Bool) : (s.setPower on).sent = s.sent := rfl
@[simp] theorem setPower_ticks (s : State) (on : Bool) : (s.setPower on).ticks = s.ticks := rfl
@[simp] theorem setPower_links (s : State) (on : Bool) : (s.setPower on).links = s.links := rfl
@[simp] theorem setPower_rcm (s : State) (on : Bool) : (s.setPower on).rcm = s.rcm := rfl
@[simp] theorem setPower_hlc (s : State) (on : Bool) : (s.setPower on).hlc = s.hlc := rfl
@[simp] theorem setPower_dju (s : State) (on : Bool) : (s.setPower on).dju = s.dju := rfl
@[simp] theorem setPower_tlu (s : State) (on : Bool) : (s.setPower on).tlu = s.tlu := rfl
@[simp] theorem setPower_lmu (s : State) (on : Bool) : (s.setPower on).lmu = s.lmu := rfl
@[simp] theorem setPower_stu (s : State) (on : Bool) : (s.setPower on).stu = s.stu := rfl
@[simp] theorem setPower_slc (s : State) (on : Bool) : (s.setPower on).slc = s.slc := rfl
@[simp] theorem setPower_prc (s : State) (on : Bool) : (s.setPower on).prc = s.prc := rfl
@[simp] theorem setPower_pjq (s : State) (on : Bool) : (s.setPower on).pjq = s.pjq := rfl
@[simp] theorem setPower_cut (s : State) (on : Bool) : (s.setPower on).cut = s.cut := rfl
@[simp] theorem setPower_hos (s : State) (on : Bool) : (s.setPower on).hos = s.hos := rfl

@[simp] theorem setReset_pending (s : State) (held : Bool) : (s.setReset held).pending = s.pending := rfl
@[simp] theorem setReset_sent (s : State) (held : Bool) : (s.setReset held).sent = s.sent := rfl
@[simp] theorem setReset_ticks (s : State) (held : Bool) : (s.setReset held).ticks = s.ticks := rfl
@[simp] theorem setReset_links (s : State) (held : Bool) : (s.setReset held).links = s.links := rfl
@[simp] theorem setReset_rcm (s : State) (held : Bool) : (s.setReset held).rcm = s.rcm := rfl
@[simp] theorem setReset_hlc (s : State) (held : Bool) : (s.setReset held).hlc = s.hlc := rfl
@[simp] theorem setReset_dju (s : State) (held : Bool) : (s.setReset held).dju = s.dju := rfl
@[simp] theorem setReset_tlu (s : State) (held : Bool) : (s.setReset held).tlu = s.tlu := rfl
@[simp] theorem setReset_lmu (s : State) (held : Bool) : (s.setReset held).lmu = s.lmu := rfl
@[simp] theorem setReset_stu (s : State) (held : Bool) : (s.setReset held).stu = s.stu := rfl
@[simp] theorem setReset_slc (s : State) (held : Bool) : (s.setReset held).slc = s.slc := rfl
@[simp] theorem setReset_prc (s : State) (held : Bool) : (s.setReset held).prc = s.prc := rfl
@[simp] theorem setReset_pjq (s : State) (held : Bool) : (s.setReset held).pjq = s.pjq := rfl
@[simp] theorem setReset_cut (s : State) (held : Bool) : (s.setReset held).cut = s.cut := rfl
@[simp] theorem setReset_hos (s : State) (held : Bool) : (s.setReset held).hos = s.hos := rfl

@[simp] theorem silence_pending (s : State) : (s.silence).pending = s.pending := rfl
@[simp] theorem silence_ticks (s : State) : (s.silence).ticks = s.ticks := rfl
@[simp] theorem silence_pins (s : State) : (s.silence).pins = s.pins := rfl
@[simp] theorem silence_rcm (s : State) : (s.silence).rcm = s.rcm := rfl
@[simp] theorem silence_dju (s : State) : (s.silence).dju = s.dju := rfl
@[simp] theorem silence_tlu (s : State) : (s.silence).tlu = s.tlu := rfl
@[simp] theorem silence_lmu (s : State) : (s.silence).lmu = s.lmu := rfl
@[simp] theorem silence_stu (s : State) : (s.silence).stu = s.stu := rfl
@[simp] theorem silence_slc (s : State) : (s.silence).slc = s.slc := rfl
@[simp] theorem silence_prc (s : State) : (s.silence).prc = s.prc := rfl
@[simp] theorem silence_pjq (s : State) : (s.silence).pjq = s.pjq := rfl
@[simp] theorem silence_cut (s : State) : (s.silence).cut = s.cut := rfl
@[simp] theorem silence_hos (s : State) : (s.silence).hos = s.hos := rfl

@[simp] theorem setReceive_pending (s : State) (r : Receive) : (s.setReceive r).pending = s.pending := rfl
@[simp] theorem setReceive_sent (s : State) (r : Receive) : (s.setReceive r).sent = s.sent := rfl
@[simp] theorem setReceive_ticks (s : State) (r : Receive) : (s.setReceive r).ticks = s.ticks := rfl
@[simp] theorem setReceive_pins (s : State) (r : Receive) : (s.setReceive r).pins = s.pins := rfl
@[simp] theorem setReceive_links (s : State) (r : Receive) : (s.setReceive r).links = s.links := rfl
@[simp] theorem setReceive_rcm (s : State) (r : Receive) : (s.setReceive r).rcm = s.rcm := rfl
@[simp] theorem setReceive_dju (s : State) (r : Receive) : (s.setReceive r).dju = s.dju := rfl
@[simp] theorem setReceive_tlu (s : State) (r : Receive) : (s.setReceive r).tlu = s.tlu := rfl
@[simp] theorem setReceive_lmu (s : State) (r : Receive) : (s.setReceive r).lmu = s.lmu := rfl
@[simp] theorem setReceive_stu (s : State) (r : Receive) : (s.setReceive r).stu = s.stu := rfl
@[simp] theorem setReceive_slc (s : State) (r : Receive) : (s.setReceive r).slc = s.slc := rfl
@[simp] theorem setReceive_prc (s : State) (r : Receive) : (s.setReceive r).prc = s.prc := rfl
@[simp] theorem setReceive_pjq (s : State) (r : Receive) : (s.setReceive r).pjq = s.pjq := rfl
@[simp] theorem setReceive_cut (s : State) (r : Receive) : (s.setReceive r).cut = s.cut := rfl
@[simp] theorem setReceive_hos (s : State) (r : Receive) : (s.setReceive r).hos = s.hos := rfl

@[simp] theorem stopClock_pending (s : State) : (s.stopClock).pending = s.pending := rfl
@[simp] theorem stopClock_sent (s : State) : (s.stopClock).sent = s.sent := rfl
@[simp] theorem stopClock_ticks (s : State) : (s.stopClock).ticks = s.ticks := rfl
@[simp] theorem stopClock_pins (s : State) : (s.stopClock).pins = s.pins := rfl
@[simp] theorem stopClock_links (s : State) : (s.stopClock).links = s.links := rfl
@[simp] theorem stopClock_rcm (s : State) : (s.stopClock).rcm = s.rcm := rfl
@[simp] theorem stopClock_dju (s : State) : (s.stopClock).dju = s.dju := rfl
@[simp] theorem stopClock_tlu (s : State) : (s.stopClock).tlu = s.tlu := rfl
@[simp] theorem stopClock_lmu (s : State) : (s.stopClock).lmu = s.lmu := rfl
@[simp] theorem stopClock_stu (s : State) : (s.stopClock).stu = s.stu := rfl
@[simp] theorem stopClock_slc (s : State) : (s.stopClock).slc = s.slc := rfl
@[simp] theorem stopClock_prc (s : State) : (s.stopClock).prc = s.prc := rfl
@[simp] theorem stopClock_pjq (s : State) : (s.stopClock).pjq = s.pjq := rfl
@[simp] theorem stopClock_cut (s : State) : (s.stopClock).cut = s.cut := rfl
@[simp] theorem stopClock_hos (s : State) : (s.stopClock).hos = s.hos := rfl

@[simp] theorem advanceClock_pending (s : State) : (s.advanceClock).pending = s.pending := rfl
@[simp] theorem advanceClock_sent (s : State) : (s.advanceClock).sent = s.sent := rfl
@[simp] theorem advanceClock_ticks (s : State) : (s.advanceClock).ticks = s.ticks := rfl
@[simp] theorem advanceClock_pins (s : State) : (s.advanceClock).pins = s.pins := rfl
@[simp] theorem advanceClock_links (s : State) : (s.advanceClock).links = s.links := rfl
@[simp] theorem advanceClock_rcm (s : State) : (s.advanceClock).rcm = s.rcm := rfl
@[simp] theorem advanceClock_dju (s : State) : (s.advanceClock).dju = s.dju := rfl
@[simp] theorem advanceClock_tlu (s : State) : (s.advanceClock).tlu = s.tlu := rfl
@[simp] theorem advanceClock_lmu (s : State) : (s.advanceClock).lmu = s.lmu := rfl
@[simp] theorem advanceClock_stu (s : State) : (s.advanceClock).stu = s.stu := rfl
@[simp] theorem advanceClock_slc (s : State) : (s.advanceClock).slc = s.slc := rfl
@[simp] theorem advanceClock_prc (s : State) : (s.advanceClock).prc = s.prc := rfl
@[simp] theorem advanceClock_pjq (s : State) : (s.advanceClock).pjq = s.pjq := rfl
@[simp] theorem advanceClock_cut (s : State) : (s.advanceClock).cut = s.cut := rfl
@[simp] theorem advanceClock_hos (s : State) : (s.advanceClock).hos = s.hos := rfl

@[simp] theorem withPending_sent (s : State) (q : List Instr) : (s.withPending q).sent = s.sent := rfl
@[simp] theorem withPending_ticks (s : State) (q : List Instr) : (s.withPending q).ticks = s.ticks := rfl
@[simp] theorem withPending_pins (s : State) (q : List Instr) : (s.withPending q).pins = s.pins := rfl
@[simp] theorem withPending_links (s : State) (q : List Instr) : (s.withPending q).links = s.links := rfl
@[simp] theorem withPending_rcm (s : State) (q : List Instr) : (s.withPending q).rcm = s.rcm := rfl
@[simp] theorem withPending_hlc (s : State) (q : List Instr) : (s.withPending q).hlc = s.hlc := rfl
@[simp] theorem withPending_dju (s : State) (q : List Instr) : (s.withPending q).dju = s.dju := rfl
@[simp] theorem withPending_tlu (s : State) (q : List Instr) : (s.withPending q).tlu = s.tlu := rfl
@[simp] theorem withPending_lmu (s : State) (q : List Instr) : (s.withPending q).lmu = s.lmu := rfl
@[simp] theorem withPending_stu (s : State) (q : List Instr) : (s.withPending q).stu = s.stu := rfl
@[simp] theorem withPending_slc (s : State) (q : List Instr) : (s.withPending q).slc = s.slc := rfl
@[simp] theorem withPending_prc (s : State) (q : List Instr) : (s.withPending q).prc = s.prc := rfl
@[simp] theorem withPending_pjq (s : State) (q : List Instr) : (s.withPending q).pjq = s.pjq := rfl
@[simp] theorem withPending_cut (s : State) (q : List Instr) : (s.withPending q).cut = s.cut := rfl
@[simp] theorem withPending_hos (s : State) (q : List Instr) : (s.withPending q).hos = s.hos := rfl

@[simp] theorem dropWorking_pending (s : State) : (s.dropWorking).pending = s.pending := rfl
@[simp] theorem dropWorking_sent (s : State) : (s.dropWorking).sent = s.sent := rfl
@[simp] theorem dropWorking_ticks (s : State) : (s.dropWorking).ticks = s.ticks := rfl
@[simp] theorem dropWorking_pins (s : State) : (s.dropWorking).pins = s.pins := rfl
@[simp] theorem dropWorking_rcm (s : State) : (s.dropWorking).rcm = s.rcm := rfl
@[simp] theorem dropWorking_dju (s : State) : (s.dropWorking).dju = s.dju := rfl
@[simp] theorem dropWorking_lmu (s : State) : (s.dropWorking).lmu = s.lmu := rfl
@[simp] theorem dropWorking_pjq (s : State) : (s.dropWorking).pjq = s.pjq := rfl
@[simp] theorem dropWorking_cut (s : State) : (s.dropWorking).cut = s.cut := rfl

@[simp] theorem announce_pending (s : State) (k : StartKind) (c : StartCause) : (s.announce k c).pending = s.pending := rfl
@[simp] theorem announce_sent (s : State) (k : StartKind) (c : StartCause) : (s.announce k c).sent = s.sent := rfl
@[simp] theorem announce_ticks (s : State) (k : StartKind) (c : StartCause) : (s.announce k c).ticks = s.ticks := rfl
@[simp] theorem announce_pins (s : State) (k : StartKind) (c : StartCause) : (s.announce k c).pins = s.pins := rfl
@[simp] theorem announce_links (s : State) (k : StartKind) (c : StartCause) : (s.announce k c).links = s.links := rfl
@[simp] theorem announce_rcm (s : State) (k : StartKind) (c : StartCause) : (s.announce k c).rcm = s.rcm := rfl
@[simp] theorem announce_dju (s : State) (k : StartKind) (c : StartCause) : (s.announce k c).dju = s.dju := rfl
@[simp] theorem announce_tlu (s : State) (k : StartKind) (c : StartCause) : (s.announce k c).tlu = s.tlu := rfl
@[simp] theorem announce_lmu (s : State) (k : StartKind) (c : StartCause) : (s.announce k c).lmu = s.lmu := rfl
@[simp] theorem announce_stu (s : State) (k : StartKind) (c : StartCause) : (s.announce k c).stu = s.stu := rfl
@[simp] theorem announce_slc (s : State) (k : StartKind) (c : StartCause) : (s.announce k c).slc = s.slc := rfl
@[simp] theorem announce_prc (s : State) (k : StartKind) (c : StartCause) : (s.announce k c).prc = s.prc := rfl
@[simp] theorem announce_pjq (s : State) (k : StartKind) (c : StartCause) : (s.announce k c).pjq = s.pjq := rfl
@[simp] theorem announce_cut (s : State) (k : StartKind) (c : StartCause) : (s.announce k c).cut = s.cut := rfl
@[simp] theorem announce_hos (s : State) (k : StartKind) (c : StartCause) : (s.announce k c).hos = s.hos := rfl

@[simp] theorem lowerTimers_pending (s : State) : (s.lowerTimers).pending = s.pending := rfl
@[simp] theorem lowerTimers_sent (s : State) : (s.lowerTimers).sent = s.sent := rfl
@[simp] theorem lowerTimers_ticks (s : State) : (s.lowerTimers).ticks = s.ticks := rfl
@[simp] theorem lowerTimers_pins (s : State) : (s.lowerTimers).pins = s.pins := rfl
@[simp] theorem lowerTimers_links (s : State) : (s.lowerTimers).links = s.links := rfl
@[simp] theorem lowerTimers_rcm (s : State) : (s.lowerTimers).rcm = s.rcm := rfl
@[simp] theorem lowerTimers_hlc (s : State) : (s.lowerTimers).hlc = s.hlc := rfl
@[simp] theorem lowerTimers_dju (s : State) : (s.lowerTimers).dju = s.dju := rfl
@[simp] theorem lowerTimers_lmu (s : State) : (s.lowerTimers).lmu = s.lmu := rfl
@[simp] theorem lowerTimers_slc (s : State) : (s.lowerTimers).slc = s.slc := rfl
@[simp] theorem lowerTimers_cut (s : State) : (s.lowerTimers).cut = s.cut := rfl

@[simp] theorem quiet_sent (s : State) : s.quiet.sent = [] := rfl
@[simp] theorem emit_sent (s : State) (x : Sent) : (s.emit x).sent = s.sent ++ [x] := rfl
@[simp] theorem emitTo_sent (s : State) (p : Printer) (m : PrinterMessage) : (s.emitTo p m).sent = s.sent ++ [.printer p m] := rfl
@[simp] theorem setHos_hos (s : State) (h : Hos) : (s.setHos h).hos = h := rfl
@[simp] theorem setJobs_jobs (s : State) (js : List Job) : (s.setJobs js).pjq.jobs = js := rfl
@[simp] theorem setTransfers_transfers (s : State) (ts : List Transfer) : (s.setTransfers ts).tlu.transfers = ts := rfl
@[simp] theorem setTill_transfers (s : State) (t : Till) (r : TillRec) : (s.setTill t r).tlu.transfers = s.tlu.transfers := rfl
@[simp] theorem setTill_denoms (s : State) (t : Till) (r : TillRec) : (s.setTill t r).tlu.denoms = s.tlu.denoms := rfl
@[simp] theorem setTill_branchOpening (s : State) (t : Till) (r : TillRec) :
    (s.setTill t r).tlu.branchOpening = s.tlu.branchOpening := rfl
@[simp] theorem setTill_lastTransfer (s : State) (t : Till) (r : TillRec) :
    (s.setTill t r).tlu.lastTransfer = s.tlu.lastTransfer := rfl
@[simp] theorem setCounts_transfers (s : State) (t : Till) (c : Counts) :
    (s.setCounts t c).tlu.transfers = s.tlu.transfers := rfl
@[simp] theorem setCounts_denoms (s : State) (t : Till) (c : Counts) : (s.setCounts t c).tlu.denoms = s.tlu.denoms := rfl
@[simp] theorem silence_sent (s : State) : s.silence.sent = [] := rfl
@[simp] theorem silence_links (s : State) : s.silence.links = Links.hunting := rfl
@[simp] theorem silence_notices (s : State) : s.silence.hlc.notices = [] := rfl
@[simp] theorem withPending_pending (s : State) (q : List Instr) : (s.withPending q).pending = q := rfl
@[simp] theorem quiet_quiet (s : State) : s.quiet.quiet = s.quiet := rfl

/-! ### Reading a record after it has been written -/

theorem till_setTill (s : State) (t u : Till) (r : TillRec) : (s.setTill t r).till u = if u = t then r else s.till u := by
  simp only [till, setTill, Vector.getElem_set, Fin.getElem_fin]
  by_cases h : u = t
  · simp [h]
  · rw [if_neg h, if_neg fun e => h (Fin.ext e.symm)]

theorem monitor_setMonitor (s : State) (t u : Till) (m : Monitor) :
    (s.setMonitor t m).monitor u = if u = t then m else s.monitor u := by
  simp only [monitor, setMonitor, Vector.getElem_set, Fin.getElem_fin]
  by_cases h : u = t
  · simp [h]
  · rw [if_neg h, if_neg fun e => h (Fin.ext e.symm)]

theorem station_setStation (s : State) (t u : Station) (r : StationRec) :
    (s.setStation t r).station u = if u = t then r else s.station u := by
  simp only [station, setStation, Vector.getElem_set, Fin.getElem_fin]
  by_cases h : u = t
  · simp [h]
  · rw [if_neg h, if_neg fun e => h (Fin.ext e.symm)]

theorem line_setLine (s : State) (t u : Station) (l : LineRec) :
    (s.setLine t l).line u = if u = t then l else s.line u := by
  simp only [line, setLine, Vector.getElem_set, Fin.getElem_fin]
  by_cases h : u = t
  · simp [h]
  · rw [if_neg h, if_neg fun e => h (Fin.ext e.symm)]

theorem printer_setPrinter (s : State) (p q : Printer) (r : PrinterRec) :
    (s.setPrinter p r).printer q = if q = p then r else s.printer q := by
  simp only [printer, setPrinter, Vector.getElem_set, Fin.getElem_fin]
  by_cases h : q = p
  · simp [h]
  · rw [if_neg h, if_neg fun e => h (Fin.ext e.symm)]

theorem receiver_setReceiver (s : State) (p q : LinkPort) (r : LinkReceive) :
    (s.setReceiver p r).receiver q = if q = p then r else s.receiver q := by
  cases p <;> cases q <;> simp [receiver, setReceiver, Vector.getElem_set, Fin.ext_iff, eq_comm]

@[simp] theorem till_setTill_same (s : State) (t : Till) (r : TillRec) : (s.setTill t r).till t = r := by
  simp [till_setTill]

@[simp] theorem monitor_setMonitor_same (s : State) (t : Till) (m : Monitor) : (s.setMonitor t m).monitor t = m := by
  simp [monitor_setMonitor]

@[simp] theorem station_setStation_same (s : State) (t : Station) (r : StationRec) : (s.setStation t r).station t = r := by
  simp [station_setStation]

@[simp] theorem line_setLine_same (s : State) (t : Station) (l : LineRec) : (s.setLine t l).line t = l := by
  simp [line_setLine]

@[simp] theorem printer_setPrinter_same (s : State) (p : Printer) (r : PrinterRec) : (s.setPrinter p r).printer p = r := by
  simp [printer_setPrinter]

theorem presence_setPresence (s : State) (t u : Station) (p : Presence) :
    (s.setPresence t p).presence u = if u = t then p else s.presence u := by
  simp only [presence, setPresence, station_setStation]
  by_cases h : u = t <;> simp [h]

@[simp] theorem receiver_setReceiver_same (s : State) (p : LinkPort) (r : LinkReceive) :
    (s.setReceiver p r).receiver p = r := by
  simp [receiver_setReceiver]

@[simp] theorem presence_setPresence_same (s : State) (t : Station) (p : Presence) :
    (s.setPresence t p).presence t = p := by
  simp [presence_setPresence]

end Sys2Proof.Machine.State
end

