-- ==== Sys2Proof/Laws/Frames.lean ====
section
/-! SUPPORT. The records each shared operation leaves alone: one lemma per operation, its conjuncts rules of `simp`. -/

namespace Sys2Proof.Machine.State

open Sys2Proof

/-- What a step of a fold leaves alone, the fold leaves alone. -/
theorem foldl_keeps {α β γ : Type} (f : β → α → β) (g : β → γ) (h : ∀ b a, g (f b a) = g b) (l : List α) (b : β) :
    g (l.foldl f b) = g b := by
  induction l generalizing b with
  | nil => rfl
  | cons a l ih => rw [List.foldl_cons, ih, h]

@[simp] theorem raise_frame (s : State) (n : Notice) :
    (s.raise n).pending = s.pending ∧ (s.raise n).sent = s.sent ∧ (s.raise n).ticks = s.ticks ∧
    (s.raise n).pins = s.pins ∧ (s.raise n).links = s.links ∧ (s.raise n).rcm = s.rcm ∧ (s.raise n).dju = s.dju ∧
    (s.raise n).tlu = s.tlu ∧ (s.raise n).lmu = s.lmu ∧ (s.raise n).stu = s.stu ∧ (s.raise n).slc = s.slc ∧
    (s.raise n).prc = s.prc ∧ (s.raise n).pjq = s.pjq ∧ (s.raise n).cut = s.cut ∧ (s.raise n).hos = s.hos := by
  generalize h : s.raise n = u
  unfold State.raise at h
  try dsimp only at h
  (repeat' split at h) <;> subst h <;> simp

@[simp] theorem noteLow_frame (s : State) (n : Nat) :
    (s.noteLow n).pending = s.pending ∧ (s.noteLow n).sent = s.sent ∧ (s.noteLow n).ticks = s.ticks ∧
    (s.noteLow n).pins = s.pins ∧ (s.noteLow n).links = s.links ∧ (s.noteLow n).rcm = s.rcm ∧
    (s.noteLow n).tlu = s.tlu ∧ (s.noteLow n).lmu = s.lmu ∧ (s.noteLow n).stu = s.stu ∧ (s.noteLow n).slc = s.slc ∧
    (s.noteLow n).prc = s.prc ∧ (s.noteLow n).pjq = s.pjq ∧ (s.noteLow n).cut = s.cut ∧
    (s.noteLow n).hos = s.hos := by
  generalize h : s.noteLow n = u
  unfold State.noteLow at h
  try dsimp only at h
  (repeat' split at h) <;> subst h <;> simp

@[simp] theorem append_frame (s : State) (d : Draft) :
    (s.append d).pending = s.pending ∧ (s.append d).sent = s.sent ∧ (s.append d).ticks = s.ticks ∧
    (s.append d).pins = s.pins ∧ (s.append d).links = s.links ∧ (s.append d).rcm = s.rcm ∧ (s.append d).tlu = s.tlu ∧
    (s.append d).lmu = s.lmu ∧ (s.append d).stu = s.stu ∧ (s.append d).slc = s.slc ∧ (s.append d).prc = s.prc ∧
    (s.append d).pjq = s.pjq ∧ (s.append d).cut = s.cut ∧ (s.append d).hos = s.hos := by
  simp [State.append]

@[simp] theorem setHeld_frame (s : State) (st : Station) (h : Option Till) :
    (s.setHeld st h).pending = s.pending ∧ (s.setHeld st h).sent = s.sent ∧ (s.setHeld st h).ticks = s.ticks ∧
    (s.setHeld st h).pins = s.pins ∧ (s.setHeld st h).links = s.links ∧ (s.setHeld st h).rcm = s.rcm ∧
    (s.setHeld st h).hlc = s.hlc ∧ (s.setHeld st h).dju = s.dju ∧ (s.setHeld st h).tlu = s.tlu ∧
    (s.setHeld st h).lmu = s.lmu ∧ (s.setHeld st h).slc = s.slc ∧ (s.setHeld st h).prc = s.prc ∧
    (s.setHeld st h).pjq = s.pjq ∧ (s.setHeld st h).cut = s.cut ∧ (s.setHeld st h).hos = s.hos := by
  generalize h : s.setHeld st h = u
  unfold State.setHeld at h
  try dsimp only at h
  (repeat' split at h) <;> subst h <;> simp

@[simp] theorem markRefilled_frame (s : State) (st : Station) :
    (s.markRefilled st).pending = s.pending ∧ (s.markRefilled st).sent = s.sent ∧
    (s.markRefilled st).ticks = s.ticks ∧ (s.markRefilled st).pins = s.pins ∧ (s.markRefilled st).links = s.links ∧
    (s.markRefilled st).rcm = s.rcm ∧ (s.markRefilled st).hlc = s.hlc ∧ (s.markRefilled st).dju = s.dju ∧
    (s.markRefilled st).tlu = s.tlu ∧ (s.markRefilled st).lmu = s.lmu ∧ (s.markRefilled st).stu = s.stu ∧
    (s.markRefilled st).prc = s.prc ∧ (s.markRefilled st).pjq = s.pjq ∧ (s.markRefilled st).cut = s.cut ∧
    (s.markRefilled st).hos = s.hos := by
  generalize h : s.markRefilled st = u
  unfold State.markRefilled at h
  try dsimp only at h
  (repeat' split at h) <;> subst h <;> simp

@[simp] theorem fillSlot_frame (s : State) (st : Station) :
    (s.fillSlot st).pending = s.pending ∧ (s.fillSlot st).sent = s.sent ∧ (s.fillSlot st).ticks = s.ticks ∧
    (s.fillSlot st).pins = s.pins ∧ (s.fillSlot st).links = s.links ∧ (s.fillSlot st).rcm = s.rcm ∧
    (s.fillSlot st).hlc = s.hlc ∧ (s.fillSlot st).dju = s.dju ∧ (s.fillSlot st).tlu = s.tlu ∧
    (s.fillSlot st).lmu = s.lmu ∧ (s.fillSlot st).stu = s.stu ∧ (s.fillSlot st).prc = s.prc ∧
    (s.fillSlot st).pjq = s.pjq ∧ (s.fillSlot st).cut = s.cut ∧ (s.fillSlot st).hos = s.hos := by
  simp [State.fillSlot]

@[simp] theorem setIndicator_frame (s : State) (st : Station) (i : Indicator) (on : Bool) :
    (s.setIndicator st i on).pending = s.pending ∧ (s.setIndicator st i on).sent = s.sent ∧
    (s.setIndicator st i on).ticks = s.ticks ∧ (s.setIndicator st i on).pins = s.pins ∧
    (s.setIndicator st i on).links = s.links ∧ (s.setIndicator st i on).rcm = s.rcm ∧
    (s.setIndicator st i on).hlc = s.hlc ∧ (s.setIndicator st i on).dju = s.dju ∧
    (s.setIndicator st i on).tlu = s.tlu ∧ (s.setIndicator st i on).lmu = s.lmu ∧
    (s.setIndicator st i on).stu = s.stu ∧ (s.setIndicator st i on).prc = s.prc ∧
    (s.setIndicator st i on).pjq = s.pjq ∧ (s.setIndicator st i on).cut = s.cut ∧
    (s.setIndicator st i on).hos = s.hos := by
  generalize h : s.setIndicator st i on = u
  unfold State.setIndicator at h
  try dsimp only at h
  (repeat' split at h) <;> subst h <;> simp

@[simp] theorem syncHold_frame (s : State) (st : Station) :
    (s.syncHold st).pending = s.pending ∧ (s.syncHold st).sent = s.sent ∧ (s.syncHold st).ticks = s.ticks ∧
    (s.syncHold st).pins = s.pins ∧ (s.syncHold st).links = s.links ∧ (s.syncHold st).rcm = s.rcm ∧
    (s.syncHold st).hlc = s.hlc ∧ (s.syncHold st).dju = s.dju ∧ (s.syncHold st).tlu = s.tlu ∧
    (s.syncHold st).lmu = s.lmu ∧ (s.syncHold st).stu = s.stu ∧ (s.syncHold st).prc = s.prc ∧
    (s.syncHold st).pjq = s.pjq ∧ (s.syncHold st).cut = s.cut ∧ (s.syncHold st).hos = s.hos := by
  simp [State.syncHold]

@[simp] theorem syncHolder_frame (s : State) (h : Option Station) :
    (s.syncHolder h).pending = s.pending ∧ (s.syncHolder h).sent = s.sent ∧ (s.syncHolder h).ticks = s.ticks ∧
    (s.syncHolder h).pins = s.pins ∧ (s.syncHolder h).links = s.links ∧ (s.syncHolder h).rcm = s.rcm ∧
    (s.syncHolder h).hlc = s.hlc ∧ (s.syncHolder h).dju = s.dju ∧ (s.syncHolder h).tlu = s.tlu ∧
    (s.syncHolder h).lmu = s.lmu ∧ (s.syncHolder h).stu = s.stu ∧ (s.syncHolder h).prc = s.prc ∧
    (s.syncHolder h).pjq = s.pjq ∧ (s.syncHolder h).cut = s.cut ∧ (s.syncHolder h).hos = s.hos := by
  generalize h : s.syncHolder h = u
  unfold State.syncHolder at h
  try dsimp only at h
  (repeat' split at h) <;> subst h <;> simp

@[simp] theorem syncOffers_frame (s : State) :
    (s.syncOffers).pending = s.pending ∧ (s.syncOffers).sent = s.sent ∧ (s.syncOffers).ticks = s.ticks ∧
    (s.syncOffers).pins = s.pins ∧ (s.syncOffers).links = s.links ∧ (s.syncOffers).rcm = s.rcm ∧
    (s.syncOffers).hlc = s.hlc ∧ (s.syncOffers).dju = s.dju ∧ (s.syncOffers).tlu = s.tlu ∧
    (s.syncOffers).lmu = s.lmu ∧ (s.syncOffers).stu = s.stu ∧ (s.syncOffers).prc = s.prc ∧
    (s.syncOffers).pjq = s.pjq ∧ (s.syncOffers).cut = s.cut ∧ (s.syncOffers).hos = s.hos := by
  unfold State.syncOffers
  try dsimp only
  refine ⟨?_, ?_, ?_, ?_, ?_, ?_, ?_, ?_, ?_, ?_, ?_, ?_, ?_, ?_, ?_⟩
  · exact (foldl_keeps _ State.pending (fun s b => by (try split) <;> simp) _ _).trans (by simp)
  · exact (foldl_keeps _ State.sent (fun s b => by (try split) <;> simp) _ _).trans (by simp)
  · exact (foldl_keeps _ State.ticks (fun s b => by (try split) <;> simp) _ _).trans (by simp)
  · exact (foldl_keeps _ State.pins (fun s b => by (try split) <;> simp) _ _).trans (by simp)
  · exact (foldl_keeps _ State.links (fun s b => by (try split) <;> simp) _ _).trans (by simp)
  · exact (foldl_keeps _ State.rcm (fun s b => by (try split) <;> simp) _ _).trans (by simp)
  · exact (foldl_keeps _ State.hlc (fun s b => by (try split) <;> simp) _ _).trans (by simp)
  · exact (foldl_keeps _ State.dju (fun s b => by (try split) <;> simp) _ _).trans (by simp)
  · exact (foldl_keeps _ State.tlu (fun s b => by (try split) <;> simp) _ _).trans (by simp)
  · exact (foldl_keeps _ State.lmu (fun s b => by (try split) <;> simp) _ _).trans (by simp)
  · exact (foldl_keeps _ State.stu (fun s b => by (try split) <;> simp) _ _).trans (by simp)
  · exact (foldl_keeps _ State.prc (fun s b => by (try split) <;> simp) _ _).trans (by simp)
  · exact (foldl_keeps _ State.pjq (fun s b => by (try split) <;> simp) _ _).trans (by simp)
  · exact (foldl_keeps _ State.cut (fun s b => by (try split) <;> simp) _ _).trans (by simp)
  · exact (foldl_keeps _ State.hos (fun s b => by (try split) <;> simp) _ _).trans (by simp)

@[simp] theorem syncJobs_frame (s : State) (st : Station) :
    (s.syncJobs st).pending = s.pending ∧ (s.syncJobs st).sent = s.sent ∧ (s.syncJobs st).ticks = s.ticks ∧
    (s.syncJobs st).pins = s.pins ∧ (s.syncJobs st).links = s.links ∧ (s.syncJobs st).rcm = s.rcm ∧
    (s.syncJobs st).hlc = s.hlc ∧ (s.syncJobs st).dju = s.dju ∧ (s.syncJobs st).tlu = s.tlu ∧
    (s.syncJobs st).lmu = s.lmu ∧ (s.syncJobs st).stu = s.stu ∧ (s.syncJobs st).prc = s.prc ∧
    (s.syncJobs st).pjq = s.pjq ∧ (s.syncJobs st).cut = s.cut ∧ (s.syncJobs st).hos = s.hos := by
  simp [State.syncJobs]

@[simp] theorem setArmed_frame (s : State) (on : Bool) :
    (s.setArmed on).pending = s.pending ∧ (s.setArmed on).sent = s.sent ∧ (s.setArmed on).ticks = s.ticks ∧
    (s.setArmed on).pins = s.pins ∧ (s.setArmed on).links = s.links ∧ (s.setArmed on).rcm = s.rcm ∧
    (s.setArmed on).hlc = s.hlc ∧ (s.setArmed on).dju = s.dju ∧ (s.setArmed on).tlu = s.tlu ∧
    (s.setArmed on).lmu = s.lmu ∧ (s.setArmed on).stu = s.stu ∧ (s.setArmed on).prc = s.prc ∧
    (s.setArmed on).pjq = s.pjq ∧ (s.setArmed on).cut = s.cut ∧ (s.setArmed on).hos = s.hos := by
  unfold State.setArmed
  try dsimp only
  refine ⟨?_, ?_, ?_, ?_, ?_, ?_, ?_, ?_, ?_, ?_, ?_, ?_, ?_, ?_, ?_⟩
  · exact (foldl_keeps _ State.pending (fun s b => by (try split) <;> simp) _ _).trans (by simp)
  · exact (foldl_keeps _ State.sent (fun s b => by (try split) <;> simp) _ _).trans (by simp)
  · exact (foldl_keeps _ State.ticks (fun s b => by (try split) <;> simp) _ _).trans (by simp)
  · exact (foldl_keeps _ State.pins (fun s b => by (try split) <;> simp) _ _).trans (by simp)
  · exact (foldl_keeps _ State.links (fun s b => by (try split) <;> simp) _ _).trans (by simp)
  · exact (foldl_keeps _ State.rcm (fun s b => by (try split) <;> simp) _ _).trans (by simp)
  · exact (foldl_keeps _ State.hlc (fun s b => by (try split) <;> simp) _ _).trans (by simp)
  · exact (foldl_keeps _ State.dju (fun s b => by (try split) <;> simp) _ _).trans (by simp)
  · exact (foldl_keeps _ State.tlu (fun s b => by (try split) <;> simp) _ _).trans (by simp)
  · exact (foldl_keeps _ State.lmu (fun s b => by (try split) <;> simp) _ _).trans (by simp)
  · exact (foldl_keeps _ State.stu (fun s b => by (try split) <;> simp) _ _).trans (by simp)
  · exact (foldl_keeps _ State.prc (fun s b => by (try split) <;> simp) _ _).trans (by simp)
  · exact (foldl_keeps _ State.pjq (fun s b => by (try split) <;> simp) _ _).trans (by simp)
  · exact (foldl_keeps _ State.cut (fun s b => by (try split) <;> simp) _ _).trans (by simp)
  · exact (foldl_keeps _ State.hos (fun s b => by (try split) <;> simp) _ _).trans (by simp)

@[simp] theorem applyPending_frame (s : State) (t : Till) :
    (s.applyPending t).pending = s.pending ∧ (s.applyPending t).sent = s.sent ∧ (s.applyPending t).ticks = s.ticks ∧
    (s.applyPending t).pins = s.pins ∧ (s.applyPending t).links = s.links ∧ (s.applyPending t).rcm = s.rcm ∧
    (s.applyPending t).hlc = s.hlc ∧ (s.applyPending t).dju = s.dju ∧ (s.applyPending t).tlu = s.tlu ∧
    (s.applyPending t).stu = s.stu ∧ (s.applyPending t).slc = s.slc ∧ (s.applyPending t).prc = s.prc ∧
    (s.applyPending t).pjq = s.pjq ∧ (s.applyPending t).cut = s.cut ∧ (s.applyPending t).hos = s.hos := by
  generalize h : s.applyPending t = u
  unfold State.applyPending at h
  try dsimp only at h
  (repeat' split at h) <;> subst h <;> simp

@[simp] theorem trip_frame (s : State) (t : Till) (d : Direction) (v q : Nat) :
    (s.trip t d v q).pending = s.pending ∧ (s.trip t d v q).sent = s.sent ∧ (s.trip t d v q).ticks = s.ticks ∧
    (s.trip t d v q).pins = s.pins ∧ (s.trip t d v q).links = s.links ∧ (s.trip t d v q).rcm = s.rcm ∧
    (s.trip t d v q).dju = s.dju ∧ (s.trip t d v q).tlu = s.tlu ∧ (s.trip t d v q).stu = s.stu ∧
    (s.trip t d v q).prc = s.prc ∧ (s.trip t d v q).pjq = s.pjq ∧ (s.trip t d v q).cut = s.cut ∧
    (s.trip t d v q).hos = s.hos := by
  simp [State.trip]

@[simp] theorem evaluate_frame (s : State) (t : Till) (q : Nat) :
    (s.evaluate t q).pending = s.pending ∧ (s.evaluate t q).sent = s.sent ∧ (s.evaluate t q).ticks = s.ticks ∧
    (s.evaluate t q).pins = s.pins ∧ (s.evaluate t q).links = s.links ∧ (s.evaluate t q).rcm = s.rcm ∧
    (s.evaluate t q).dju = s.dju ∧ (s.evaluate t q).tlu = s.tlu ∧ (s.evaluate t q).stu = s.stu ∧
    (s.evaluate t q).prc = s.prc ∧ (s.evaluate t q).pjq = s.pjq ∧ (s.evaluate t q).cut = s.cut ∧
    (s.evaluate t q).hos = s.hos := by
  generalize h : s.evaluate t q = u
  unfold State.evaluate at h
  try dsimp only at h
  (repeat' split at h) <;> subst h <;> simp

@[simp] theorem reportAbsent_frame (s : State) (st : Station) :
    (s.reportAbsent st).pending = s.pending ∧ (s.reportAbsent st).sent = s.sent ∧
    (s.reportAbsent st).ticks = s.ticks ∧ (s.reportAbsent st).pins = s.pins ∧ (s.reportAbsent st).links = s.links ∧
    (s.reportAbsent st).rcm = s.rcm ∧ (s.reportAbsent st).dju = s.dju ∧ (s.reportAbsent st).tlu = s.tlu ∧
    (s.reportAbsent st).lmu = s.lmu ∧ (s.reportAbsent st).slc = s.slc ∧ (s.reportAbsent st).prc = s.prc ∧
    (s.reportAbsent st).pjq = s.pjq ∧ (s.reportAbsent st).cut = s.cut ∧ (s.reportAbsent st).hos = s.hos := by
  generalize h : s.reportAbsent st = u
  unfold State.reportAbsent at h
  try dsimp only at h
  (repeat' split at h) <;> subst h <;> simp

@[simp] theorem reportAnswered_frame (s : State) (st : Station) :
    (s.reportAnswered st).pending = s.pending ∧ (s.reportAnswered st).sent = s.sent ∧
    (s.reportAnswered st).ticks = s.ticks ∧ (s.reportAnswered st).pins = s.pins ∧
    (s.reportAnswered st).links = s.links ∧ (s.reportAnswered st).rcm = s.rcm ∧ (s.reportAnswered st).dju = s.dju ∧
    (s.reportAnswered st).tlu = s.tlu ∧ (s.reportAnswered st).lmu = s.lmu ∧ (s.reportAnswered st).slc = s.slc ∧
    (s.reportAnswered st).prc = s.prc ∧ (s.reportAnswered st).pjq = s.pjq ∧ (s.reportAnswered st).cut = s.cut ∧
    (s.reportAnswered st).hos = s.hos := by
  generalize h : s.reportAnswered st = u
  unfold State.reportAnswered at h
  try dsimp only at h
  (repeat' split at h) <;> subst h <;> simp

@[simp] theorem beginSlot_frame (s : State) (st : Station) :
    (s.beginSlot st).pending = s.pending ∧ (s.beginSlot st).ticks = s.ticks ∧ (s.beginSlot st).pins = s.pins ∧
    (s.beginSlot st).links = s.links ∧ (s.beginSlot st).rcm = s.rcm ∧ (s.beginSlot st).hlc = s.hlc ∧
    (s.beginSlot st).dju = s.dju ∧ (s.beginSlot st).tlu = s.tlu ∧ (s.beginSlot st).lmu = s.lmu ∧
    (s.beginSlot st).stu = s.stu ∧ (s.beginSlot st).prc = s.prc ∧ (s.beginSlot st).pjq = s.pjq ∧
    (s.beginSlot st).cut = s.cut ∧ (s.beginSlot st).hos = s.hos := by
  generalize h : s.beginSlot st = u
  unfold State.beginSlot at h
  try dsimp only at h
  (repeat' split at h) <;> subst h <;> simp

@[simp] theorem nextSlot_frame (s : State) (n : Nat) :
    (State.nextSlot n s).pending = s.pending ∧ (State.nextSlot n s).ticks = s.ticks ∧
    (State.nextSlot n s).pins = s.pins ∧ (State.nextSlot n s).links = s.links ∧ (State.nextSlot n s).rcm = s.rcm ∧
    (State.nextSlot n s).hlc = s.hlc ∧ (State.nextSlot n s).dju = s.dju ∧ (State.nextSlot n s).tlu = s.tlu ∧
    (State.nextSlot n s).lmu = s.lmu ∧ (State.nextSlot n s).stu = s.stu ∧ (State.nextSlot n s).prc = s.prc ∧
    (State.nextSlot n s).pjq = s.pjq ∧ (State.nextSlot n s).cut = s.cut ∧ (State.nextSlot n s).hos = s.hos := by
  induction n generalizing s with
  | zero => simp [State.nextSlot]
  | succ n ih =>
    generalize h : State.nextSlot (n + 1) s = u
    unfold State.nextSlot at h
    try dsimp only at h
    (repeat' split at h) <;> subst h <;> simp [ih]

@[simp] theorem endSlot_frame (s : State) :
    (s.endSlot).pending = s.pending ∧ (s.endSlot).ticks = s.ticks ∧ (s.endSlot).pins = s.pins ∧
    (s.endSlot).links = s.links ∧ (s.endSlot).rcm = s.rcm ∧ (s.endSlot).hlc = s.hlc ∧ (s.endSlot).dju = s.dju ∧
    (s.endSlot).tlu = s.tlu ∧ (s.endSlot).lmu = s.lmu ∧ (s.endSlot).stu = s.stu ∧ (s.endSlot).prc = s.prc ∧
    (s.endSlot).pjq = s.pjq ∧ (s.endSlot).cut = s.cut ∧ (s.endSlot).hos = s.hos := by
  simp [State.endSlot]

@[simp] theorem screenAbsent_frame (s : State) (st : Station) :
    (s.screenAbsent st).pending = s.pending ∧ (s.screenAbsent st).sent = s.sent ∧
    (s.screenAbsent st).ticks = s.ticks ∧ (s.screenAbsent st).pins = s.pins ∧ (s.screenAbsent st).links = s.links ∧
    (s.screenAbsent st).rcm = s.rcm ∧ (s.screenAbsent st).dju = s.dju ∧ (s.screenAbsent st).tlu = s.tlu ∧
    (s.screenAbsent st).lmu = s.lmu ∧ (s.screenAbsent st).prc = s.prc ∧ (s.screenAbsent st).pjq = s.pjq ∧
    (s.screenAbsent st).cut = s.cut ∧ (s.screenAbsent st).hos = s.hos := by
  simp [State.screenAbsent]

@[simp] theorem takeEntry_frame (s : State) (st : Station) (k : InputKind) (b : Bool) (x : Text) :
    (s.takeEntry st k b x).pending = s.pending ∧ (s.takeEntry st k b x).sent = s.sent ∧
    (s.takeEntry st k b x).ticks = s.ticks ∧ (s.takeEntry st k b x).pins = s.pins ∧
    (s.takeEntry st k b x).links = s.links ∧ (s.takeEntry st k b x).rcm = s.rcm ∧ (s.takeEntry st k b x).dju = s.dju ∧
    (s.takeEntry st k b x).tlu = s.tlu ∧ (s.takeEntry st k b x).lmu = s.lmu ∧ (s.takeEntry st k b x).stu = s.stu ∧
    (s.takeEntry st k b x).prc = s.prc ∧ (s.takeEntry st k b x).pjq = s.pjq ∧ (s.takeEntry st k b x).cut = s.cut ∧
    (s.takeEntry st k b x).hos = s.hos := by
  generalize h : s.takeEntry st k b x = u
  unfold State.takeEntry at h
  try dsimp only at h
  (repeat' split at h) <;> subst h <;> simp

@[simp] theorem handleContent_frame (s : State) (st : Station) (c : ReplyContent) :
    (s.handleContent st c).pending = s.pending ∧ (s.handleContent st c).sent = s.sent ∧
    (s.handleContent st c).ticks = s.ticks ∧ (s.handleContent st c).pins = s.pins ∧
    (s.handleContent st c).links = s.links ∧ (s.handleContent st c).rcm = s.rcm ∧ (s.handleContent st c).dju = s.dju ∧
    (s.handleContent st c).tlu = s.tlu ∧ (s.handleContent st c).lmu = s.lmu ∧ (s.handleContent st c).stu = s.stu ∧
    (s.handleContent st c).prc = s.prc ∧ (s.handleContent st c).pjq = s.pjq ∧ (s.handleContent st c).cut = s.cut ∧
    (s.handleContent st c).hos = s.hos := by
  generalize h : s.handleContent st c = u
  unfold State.handleContent at h
  try dsimp only at h
  (repeat' split at h) <;> subst h <;> simp

@[simp] theorem applyReply_frame (s : State) (sl : Slot) (r : ScreenReply) :
    (s.applyReply sl r).pending = s.pending ∧ (s.applyReply sl r).sent = s.sent ∧
    (s.applyReply sl r).ticks = s.ticks ∧ (s.applyReply sl r).pins = s.pins ∧ (s.applyReply sl r).links = s.links ∧
    (s.applyReply sl r).rcm = s.rcm ∧ (s.applyReply sl r).dju = s.dju ∧ (s.applyReply sl r).tlu = s.tlu ∧
    (s.applyReply sl r).lmu = s.lmu ∧ (s.applyReply sl r).stu = s.stu ∧ (s.applyReply sl r).prc = s.prc ∧
    (s.applyReply sl r).pjq = s.pjq ∧ (s.applyReply sl r).cut = s.cut ∧ (s.applyReply sl r).hos = s.hos := by
  generalize h : s.applyReply sl r = u
  unfold State.applyReply at h
  try dsimp only at h
  (repeat' split at h) <;> subst h <;> simp

@[simp] theorem answerAbsent_frame (s : State) (sl : Slot) (r : ScreenReply) :
    (s.answerAbsent sl r).pending = s.pending ∧ (s.answerAbsent sl r).sent = s.sent ∧
    (s.answerAbsent sl r).ticks = s.ticks ∧ (s.answerAbsent sl r).pins = s.pins ∧
    (s.answerAbsent sl r).links = s.links ∧ (s.answerAbsent sl r).rcm = s.rcm ∧ (s.answerAbsent sl r).dju = s.dju ∧
    (s.answerAbsent sl r).tlu = s.tlu ∧ (s.answerAbsent sl r).lmu = s.lmu ∧ (s.answerAbsent sl r).prc = s.prc ∧
    (s.answerAbsent sl r).pjq = s.pjq ∧ (s.answerAbsent sl r).cut = s.cut ∧ (s.answerAbsent sl r).hos = s.hos := by
  simp [State.answerAbsent]

@[simp] theorem takeReply_frame (s : State) (r : ScreenReply) :
    (s.takeReply r).pending = s.pending ∧ (s.takeReply r).ticks = s.ticks ∧ (s.takeReply r).pins = s.pins ∧
    (s.takeReply r).links = s.links ∧ (s.takeReply r).rcm = s.rcm ∧ (s.takeReply r).dju = s.dju ∧
    (s.takeReply r).tlu = s.tlu ∧ (s.takeReply r).lmu = s.lmu ∧ (s.takeReply r).prc = s.prc ∧
    (s.takeReply r).pjq = s.pjq ∧ (s.takeReply r).cut = s.cut ∧ (s.takeReply r).hos = s.hos := by
  generalize h : s.takeReply r = u
  unfold State.takeReply at h
  try dsimp only at h
  (repeat' split at h) <;> subst h <;> simp

@[simp] theorem applyMiss_frame (s : State) (sl : Slot) :
    (s.applyMiss sl).pending = s.pending ∧ (s.applyMiss sl).sent = s.sent ∧ (s.applyMiss sl).ticks = s.ticks ∧
    (s.applyMiss sl).pins = s.pins ∧ (s.applyMiss sl).links = s.links ∧ (s.applyMiss sl).rcm = s.rcm ∧
    (s.applyMiss sl).dju = s.dju ∧ (s.applyMiss sl).tlu = s.tlu ∧ (s.applyMiss sl).lmu = s.lmu ∧
    (s.applyMiss sl).prc = s.prc ∧ (s.applyMiss sl).pjq = s.pjq ∧ (s.applyMiss sl).cut = s.cut ∧
    (s.applyMiss sl).hos = s.hos := by
  generalize h : s.applyMiss sl = u
  unfold State.applyMiss at h
  try dsimp only at h
  (repeat' split at h) <;> subst h <;> simp

@[simp] theorem missReply_frame (s : State) :
    (s.missReply).pending = s.pending ∧ (s.missReply).ticks = s.ticks ∧ (s.missReply).pins = s.pins ∧
    (s.missReply).links = s.links ∧ (s.missReply).rcm = s.rcm ∧ (s.missReply).dju = s.dju ∧
    (s.missReply).tlu = s.tlu ∧ (s.missReply).lmu = s.lmu ∧ (s.missReply).prc = s.prc ∧ (s.missReply).pjq = s.pjq ∧
    (s.missReply).cut = s.cut ∧ (s.missReply).hos = s.hos := by
  generalize h : s.missReply = u
  unfold State.missReply at h
  try dsimp only at h
  (repeat' split at h) <;> subst h <;> simp

@[simp] theorem staleSlot_frame (s : State) (st : Station) :
    (s.staleSlot st).pending = s.pending ∧ (s.staleSlot st).sent = s.sent ∧ (s.staleSlot st).ticks = s.ticks ∧
    (s.staleSlot st).pins = s.pins ∧ (s.staleSlot st).links = s.links ∧ (s.staleSlot st).rcm = s.rcm ∧
    (s.staleSlot st).hlc = s.hlc ∧ (s.staleSlot st).dju = s.dju ∧ (s.staleSlot st).tlu = s.tlu ∧
    (s.staleSlot st).lmu = s.lmu ∧ (s.staleSlot st).stu = s.stu ∧ (s.staleSlot st).prc = s.prc ∧
    (s.staleSlot st).pjq = s.pjq ∧ (s.staleSlot st).cut = s.cut ∧ (s.staleSlot st).hos = s.hos := by
  generalize h : s.staleSlot st = u
  unfold State.staleSlot at h
  try dsimp only at h
  (repeat' split at h) <;> subst h <;> simp

@[simp] theorem dropOutside_frame (s : State) (range : List Station) :
    (s.dropOutside range).pending = s.pending ∧ (s.dropOutside range).sent = s.sent ∧
    (s.dropOutside range).ticks = s.ticks ∧ (s.dropOutside range).pins = s.pins ∧
    (s.dropOutside range).links = s.links ∧ (s.dropOutside range).rcm = s.rcm ∧ (s.dropOutside range).hlc = s.hlc ∧
    (s.dropOutside range).dju = s.dju ∧ (s.dropOutside range).tlu = s.tlu ∧ (s.dropOutside range).lmu = s.lmu ∧
    (s.dropOutside range).stu = s.stu ∧ (s.dropOutside range).prc = s.prc ∧ (s.dropOutside range).pjq = s.pjq ∧
    (s.dropOutside range).cut = s.cut ∧ (s.dropOutside range).hos = s.hos := by
  generalize h : s.dropOutside range = u
  unfold State.dropOutside at h
  try dsimp only at h
  (repeat' split at h) <;> subst h <;> simp

@[simp] theorem setReceiver_frame (s : State) (port : LinkPort) (r : LinkReceive) :
    (s.setReceiver port r).pending = s.pending ∧ (s.setReceiver port r).sent = s.sent ∧
    (s.setReceiver port r).ticks = s.ticks ∧ (s.setReceiver port r).pins = s.pins ∧
    (s.setReceiver port r).rcm = s.rcm ∧ (s.setReceiver port r).hlc = s.hlc ∧ (s.setReceiver port r).dju = s.dju ∧
    (s.setReceiver port r).tlu = s.tlu ∧ (s.setReceiver port r).lmu = s.lmu ∧ (s.setReceiver port r).stu = s.stu ∧
    (s.setReceiver port r).slc = s.slc ∧ (s.setReceiver port r).prc = s.prc ∧ (s.setReceiver port r).pjq = s.pjq ∧
    (s.setReceiver port r).cut = s.cut ∧ (s.setReceiver port r).hos = s.hos := by
  generalize h : s.setReceiver port r = u
  unfold State.setReceiver at h
  try dsimp only at h
  (repeat' split at h) <;> subst h <;> simp

@[simp] theorem sendClear_frame (s : State) (p : Printer) :
    (s.sendClear p).pending = s.pending ∧ (s.sendClear p).ticks = s.ticks ∧ (s.sendClear p).pins = s.pins ∧
    (s.sendClear p).links = s.links ∧ (s.sendClear p).rcm = s.rcm ∧ (s.sendClear p).hlc = s.hlc ∧
    (s.sendClear p).dju = s.dju ∧ (s.sendClear p).tlu = s.tlu ∧ (s.sendClear p).lmu = s.lmu ∧
    (s.sendClear p).stu = s.stu ∧ (s.sendClear p).slc = s.slc ∧ (s.sendClear p).pjq = s.pjq ∧
    (s.sendClear p).cut = s.cut ∧ (s.sendClear p).hos = s.hos := by
  simp [State.sendClear]

@[simp] theorem startJob_frame (s : State) (p : Printer) (j : Job) :
    (s.startJob p j).pending = s.pending ∧ (s.startJob p j).ticks = s.ticks ∧ (s.startJob p j).pins = s.pins ∧
    (s.startJob p j).links = s.links ∧ (s.startJob p j).rcm = s.rcm ∧ (s.startJob p j).hlc = s.hlc ∧
    (s.startJob p j).dju = s.dju ∧ (s.startJob p j).tlu = s.tlu ∧ (s.startJob p j).lmu = s.lmu ∧
    (s.startJob p j).stu = s.stu ∧ (s.startJob p j).cut = s.cut ∧ (s.startJob p j).hos = s.hos := by
  simp [State.startJob]

@[simp] theorem pickOne_frame (s : State) (p : Printer) :
    (s.pickOne p).pending = s.pending ∧ (s.pickOne p).ticks = s.ticks ∧ (s.pickOne p).pins = s.pins ∧
    (s.pickOne p).links = s.links ∧ (s.pickOne p).rcm = s.rcm ∧ (s.pickOne p).hlc = s.hlc ∧
    (s.pickOne p).dju = s.dju ∧ (s.pickOne p).tlu = s.tlu ∧ (s.pickOne p).lmu = s.lmu ∧ (s.pickOne p).stu = s.stu ∧
    (s.pickOne p).cut = s.cut ∧ (s.pickOne p).hos = s.hos := by
  generalize h : s.pickOne p = u
  unfold State.pickOne at h
  try dsimp only at h
  (repeat' split at h) <;> subst h <;> simp

@[simp] theorem pickPass_frame (s : State) :
    (s.pickPass).pending = s.pending ∧ (s.pickPass).ticks = s.ticks ∧ (s.pickPass).pins = s.pins ∧
    (s.pickPass).links = s.links ∧ (s.pickPass).rcm = s.rcm ∧ (s.pickPass).hlc = s.hlc ∧ (s.pickPass).dju = s.dju ∧
    (s.pickPass).tlu = s.tlu ∧ (s.pickPass).lmu = s.lmu ∧ (s.pickPass).stu = s.stu ∧ (s.pickPass).cut = s.cut ∧
    (s.pickPass).hos = s.hos := by
  unfold State.pickPass
  try dsimp only
  refine ⟨?_, ?_, ?_, ?_, ?_, ?_, ?_, ?_, ?_, ?_, ?_, ?_⟩
  · exact (foldl_keeps _ State.pending (fun s b => by (try split) <;> simp) _ _).trans (by simp)
  · exact (foldl_keeps _ State.ticks (fun s b => by (try split) <;> simp) _ _).trans (by simp)
  · exact (foldl_keeps _ State.pins (fun s b => by (try split) <;> simp) _ _).trans (by simp)
  · exact (foldl_keeps _ State.links (fun s b => by (try split) <;> simp) _ _).trans (by simp)
  · exact (foldl_keeps _ State.rcm (fun s b => by (try split) <;> simp) _ _).trans (by simp)
  · exact (foldl_keeps _ State.hlc (fun s b => by (try split) <;> simp) _ _).trans (by simp)
  · exact (foldl_keeps _ State.dju (fun s b => by (try split) <;> simp) _ _).trans (by simp)
  · exact (foldl_keeps _ State.tlu (fun s b => by (try split) <;> simp) _ _).trans (by simp)
  · exact (foldl_keeps _ State.lmu (fun s b => by (try split) <;> simp) _ _).trans (by simp)
  · exact (foldl_keeps _ State.stu (fun s b => by (try split) <;> simp) _ _).trans (by simp)
  · exact (foldl_keeps _ State.cut (fun s b => by (try split) <;> simp) _ _).trans (by simp)
  · exact (foldl_keeps _ State.hos (fun s b => by (try split) <;> simp) _ _).trans (by simp)

@[simp] theorem unbind_frame (s : State) (o : Option Printer) :
    (s.unbind o).pending = s.pending ∧ (s.unbind o).sent = s.sent ∧ (s.unbind o).ticks = s.ticks ∧
    (s.unbind o).pins = s.pins ∧ (s.unbind o).links = s.links ∧ (s.unbind o).rcm = s.rcm ∧ (s.unbind o).hlc = s.hlc ∧
    (s.unbind o).dju = s.dju ∧ (s.unbind o).tlu = s.tlu ∧ (s.unbind o).lmu = s.lmu ∧ (s.unbind o).stu = s.stu ∧
    (s.unbind o).slc = s.slc ∧ (s.unbind o).pjq = s.pjq ∧ (s.unbind o).cut = s.cut ∧ (s.unbind o).hos = s.hos := by
  generalize h : s.unbind o = u
  unfold State.unbind at h
  try dsimp only at h
  (repeat' split at h) <;> subst h <;> simp

@[simp] theorem freePostings_frame (s : State) (l : List JobLine) :
    (s.freePostings l).pending = s.pending ∧ (s.freePostings l).sent = s.sent ∧ (s.freePostings l).ticks = s.ticks ∧
    (s.freePostings l).pins = s.pins ∧ (s.freePostings l).links = s.links ∧ (s.freePostings l).rcm = s.rcm ∧
    (s.freePostings l).hlc = s.hlc ∧ (s.freePostings l).tlu = s.tlu ∧ (s.freePostings l).lmu = s.lmu ∧
    (s.freePostings l).stu = s.stu ∧ (s.freePostings l).slc = s.slc ∧ (s.freePostings l).prc = s.prc ∧
    (s.freePostings l).pjq = s.pjq ∧ (s.freePostings l).cut = s.cut ∧ (s.freePostings l).hos = s.hos := by
  unfold State.freePostings
  try dsimp only
  refine ⟨?_, ?_, ?_, ?_, ?_, ?_, ?_, ?_, ?_, ?_, ?_, ?_, ?_, ?_, ?_⟩
  · exact (foldl_keeps _ State.pending (fun s b => by (try dsimp only); split <;> simp) _ _).trans (by simp)
  · exact (foldl_keeps _ State.sent (fun s b => by (try dsimp only); split <;> simp) _ _).trans (by simp)
  · exact (foldl_keeps _ State.ticks (fun s b => by (try dsimp only); split <;> simp) _ _).trans (by simp)
  · exact (foldl_keeps _ State.pins (fun s b => by (try dsimp only); split <;> simp) _ _).trans (by simp)
  · exact (foldl_keeps _ State.links (fun s b => by (try dsimp only); split <;> simp) _ _).trans (by simp)
  · exact (foldl_keeps _ State.rcm (fun s b => by (try dsimp only); split <;> simp) _ _).trans (by simp)
  · exact (foldl_keeps _ State.hlc (fun s b => by (try dsimp only); split <;> simp) _ _).trans (by simp)
  · exact (foldl_keeps _ State.tlu (fun s b => by (try dsimp only); split <;> simp) _ _).trans (by simp)
  · exact (foldl_keeps _ State.lmu (fun s b => by (try dsimp only); split <;> simp) _ _).trans (by simp)
  · exact (foldl_keeps _ State.stu (fun s b => by (try dsimp only); split <;> simp) _ _).trans (by simp)
  · exact (foldl_keeps _ State.slc (fun s b => by (try dsimp only); split <;> simp) _ _).trans (by simp)
  · exact (foldl_keeps _ State.prc (fun s b => by (try dsimp only); split <;> simp) _ _).trans (by simp)
  · exact (foldl_keeps _ State.pjq (fun s b => by (try dsimp only); split <;> simp) _ _).trans (by simp)
  · exact (foldl_keeps _ State.cut (fun s b => by (try dsimp only); split <;> simp) _ _).trans (by simp)
  · exact (foldl_keeps _ State.hos (fun s b => by (try dsimp only); split <;> simp) _ _).trans (by simp)

@[simp] theorem closeJob_frame (s : State) (j : Job) (x : JobState) (r : Reason) :
    (s.closeJob j x r).pending = s.pending ∧ (s.closeJob j x r).sent = s.sent ∧ (s.closeJob j x r).ticks = s.ticks ∧
    (s.closeJob j x r).pins = s.pins ∧ (s.closeJob j x r).links = s.links ∧ (s.closeJob j x r).rcm = s.rcm ∧
    (s.closeJob j x r).tlu = s.tlu ∧ (s.closeJob j x r).lmu = s.lmu ∧ (s.closeJob j x r).stu = s.stu ∧
    (s.closeJob j x r).cut = s.cut ∧ (s.closeJob j x r).hos = s.hos := by
  simp [State.closeJob]

@[simp] theorem endJob_frame (s : State) (j : Job) (x : JobState) (r : Reason) :
    (s.endJob j x r).pending = s.pending ∧ (s.endJob j x r).ticks = s.ticks ∧ (s.endJob j x r).pins = s.pins ∧
    (s.endJob j x r).links = s.links ∧ (s.endJob j x r).rcm = s.rcm ∧ (s.endJob j x r).tlu = s.tlu ∧
    (s.endJob j x r).lmu = s.lmu ∧ (s.endJob j x r).stu = s.stu ∧ (s.endJob j x r).cut = s.cut ∧
    (s.endJob j x r).hos = s.hos := by
  generalize h : s.endJob j x r = u
  unfold State.endJob at h
  try dsimp only at h
  (repeat' split at h) <;> subst h <;> simp

@[simp] theorem giveBack_frame (s : State) (p : Printer) (j : Job) :
    (s.giveBack p j).pending = s.pending ∧ (s.giveBack p j).ticks = s.ticks ∧ (s.giveBack p j).pins = s.pins ∧
    (s.giveBack p j).links = s.links ∧ (s.giveBack p j).rcm = s.rcm ∧ (s.giveBack p j).hlc = s.hlc ∧
    (s.giveBack p j).dju = s.dju ∧ (s.giveBack p j).tlu = s.tlu ∧ (s.giveBack p j).lmu = s.lmu ∧
    (s.giveBack p j).stu = s.stu ∧ (s.giveBack p j).slc = s.slc ∧ (s.giveBack p j).prc = s.prc ∧
    (s.giveBack p j).pjq = s.pjq ∧ (s.giveBack p j).cut = s.cut ∧ (s.giveBack p j).hos = s.hos := by
  generalize h : s.giveBack p j = u
  unfold State.giveBack at h
  try dsimp only at h
  (repeat' split at h) <;> subst h <;> simp

@[simp] theorem leave_frame (s : State) (p : Printer) (j : Job) (x : JobState) (r : Reason) :
    (s.leave p j x r).pending = s.pending ∧ (s.leave p j x r).ticks = s.ticks ∧ (s.leave p j x r).pins = s.pins ∧
    (s.leave p j x r).links = s.links ∧ (s.leave p j x r).rcm = s.rcm ∧ (s.leave p j x r).tlu = s.tlu ∧
    (s.leave p j x r).lmu = s.lmu ∧ (s.leave p j x r).stu = s.stu ∧ (s.leave p j x r).cut = s.cut ∧
    (s.leave p j x r).hos = s.hos := by
  simp [State.leave]

@[simp] theorem finish_frame (s : State) (p : Printer) (j : Job) :
    (s.finish p j).pending = s.pending ∧ (s.finish p j).ticks = s.ticks ∧ (s.finish p j).pins = s.pins ∧
    (s.finish p j).links = s.links ∧ (s.finish p j).rcm = s.rcm ∧ (s.finish p j).tlu = s.tlu ∧
    (s.finish p j).lmu = s.lmu ∧ (s.finish p j).stu = s.stu ∧ (s.finish p j).cut = s.cut ∧
    (s.finish p j).hos = s.hos := by
  simp [State.finish]

@[simp] theorem sendLine_frame (s : State) (p : Printer) (j : Job) (i : Nat) (l : JobLine) :
    (s.sendLine p j i l).pending = s.pending ∧ (s.sendLine p j i l).ticks = s.ticks ∧
    (s.sendLine p j i l).pins = s.pins ∧ (s.sendLine p j i l).links = s.links ∧ (s.sendLine p j i l).rcm = s.rcm ∧
    (s.sendLine p j i l).hlc = s.hlc ∧ (s.sendLine p j i l).dju = s.dju ∧ (s.sendLine p j i l).tlu = s.tlu ∧
    (s.sendLine p j i l).lmu = s.lmu ∧ (s.sendLine p j i l).stu = s.stu ∧ (s.sendLine p j i l).slc = s.slc ∧
    (s.sendLine p j i l).prc = s.prc ∧ (s.sendLine p j i l).cut = s.cut ∧ (s.sendLine p j i l).hos = s.hos := by
  simp [State.sendLine]

@[simp] theorem seekLine_frame (s : State) (p : Printer) (j : Job) :
    (s.seekLine p j).pending = s.pending ∧ (s.seekLine p j).ticks = s.ticks ∧ (s.seekLine p j).pins = s.pins ∧
    (s.seekLine p j).links = s.links ∧ (s.seekLine p j).rcm = s.rcm ∧ (s.seekLine p j).tlu = s.tlu ∧
    (s.seekLine p j).lmu = s.lmu ∧ (s.seekLine p j).stu = s.stu ∧ (s.seekLine p j).cut = s.cut ∧
    (s.seekLine p j).hos = s.hos := by
  generalize h : s.seekLine p j = u
  unfold State.seekLine at h
  try dsimp only at h
  (repeat' split at h) <;> subst h <;> simp

@[simp] theorem pageEnd_frame (s : State) (p : Printer) (j : Job) :
    (s.pageEnd p j).pending = s.pending ∧ (s.pageEnd p j).ticks = s.ticks ∧ (s.pageEnd p j).pins = s.pins ∧
    (s.pageEnd p j).links = s.links ∧ (s.pageEnd p j).rcm = s.rcm ∧ (s.pageEnd p j).tlu = s.tlu ∧
    (s.pageEnd p j).lmu = s.lmu ∧ (s.pageEnd p j).stu = s.stu ∧ (s.pageEnd p j).cut = s.cut ∧
    (s.pageEnd p j).hos = s.hos := by
  generalize h : s.pageEnd p j = u
  unfold State.pageEnd at h
  try dsimp only at h
  (repeat' split at h) <;> subst h <;> simp

@[simp] theorem afterLine_frame (s : State) (p : Printer) (j : Job) :
    (s.afterLine p j).pending = s.pending ∧ (s.afterLine p j).ticks = s.ticks ∧ (s.afterLine p j).pins = s.pins ∧
    (s.afterLine p j).links = s.links ∧ (s.afterLine p j).rcm = s.rcm ∧ (s.afterLine p j).tlu = s.tlu ∧
    (s.afterLine p j).lmu = s.lmu ∧ (s.afterLine p j).stu = s.stu ∧ (s.afterLine p j).cut = s.cut ∧
    (s.afterLine p j).hos = s.hos := by
  generalize h : s.afterLine p j = u
  unfold State.afterLine at h
  try dsimp only at h
  (repeat' split at h) <;> subst h <;> simp

@[simp] theorem lineDone_frame (s : State) (p : Printer) (j : Job) :
    (s.lineDone p j).pending = s.pending ∧ (s.lineDone p j).ticks = s.ticks ∧ (s.lineDone p j).pins = s.pins ∧
    (s.lineDone p j).links = s.links ∧ (s.lineDone p j).rcm = s.rcm ∧ (s.lineDone p j).tlu = s.tlu ∧
    (s.lineDone p j).lmu = s.lmu ∧ (s.lineDone p j).stu = s.stu ∧ (s.lineDone p j).cut = s.cut ∧
    (s.lineDone p j).hos = s.hos := by
  generalize h : s.lineDone p j = u
  unfold State.lineDone at h
  try dsimp only at h
  (repeat' split at h) <;> subst h <;> simp

@[simp] theorem pageFull_frame (s : State) (p : Printer) (j : Job) :
    (s.pageFull p j).pending = s.pending ∧ (s.pageFull p j).ticks = s.ticks ∧ (s.pageFull p j).pins = s.pins ∧
    (s.pageFull p j).links = s.links ∧ (s.pageFull p j).rcm = s.rcm ∧ (s.pageFull p j).tlu = s.tlu ∧
    (s.pageFull p j).lmu = s.lmu ∧ (s.pageFull p j).stu = s.stu ∧ (s.pageFull p j).cut = s.cut ∧
    (s.pageFull p j).hos = s.hos := by
  generalize h : s.pageFull p j = u
  unfold State.pageFull at h
  try dsimp only at h
  (repeat' split at h) <;> subst h <;> simp

@[simp] theorem wrongBook_frame (s : State) (p : Printer) (j : Job) :
    (s.wrongBook p j).pending = s.pending ∧ (s.wrongBook p j).ticks = s.ticks ∧ (s.wrongBook p j).pins = s.pins ∧
    (s.wrongBook p j).links = s.links ∧ (s.wrongBook p j).rcm = s.rcm ∧ (s.wrongBook p j).tlu = s.tlu ∧
    (s.wrongBook p j).lmu = s.lmu ∧ (s.wrongBook p j).stu = s.stu ∧ (s.wrongBook p j).cut = s.cut ∧
    (s.wrongBook p j).hos = s.hos := by
  generalize h : s.wrongBook p j = u
  unfold State.wrongBook at h
  try dsimp only at h
  (repeat' split at h) <;> subst h <;> simp

@[simp] theorem rightBook_frame (s : State) (p : Printer) (j : Job) (x y : Nat) :
    (s.rightBook p j x y).pending = s.pending ∧ (s.rightBook p j x y).ticks = s.ticks ∧
    (s.rightBook p j x y).pins = s.pins ∧ (s.rightBook p j x y).links = s.links ∧ (s.rightBook p j x y).rcm = s.rcm ∧
    (s.rightBook p j x y).tlu = s.tlu ∧ (s.rightBook p j x y).lmu = s.lmu ∧ (s.rightBook p j x y).stu = s.stu ∧
    (s.rightBook p j x y).cut = s.cut ∧ (s.rightBook p j x y).hos = s.hos := by
  simp [State.rightBook]

@[simp] theorem bookInserted_frame (s : State) (p : Printer) (j : Job) (b : Text) (x y : Nat) :
    (s.bookInserted p j b x y).pending = s.pending ∧ (s.bookInserted p j b x y).ticks = s.ticks ∧
    (s.bookInserted p j b x y).pins = s.pins ∧ (s.bookInserted p j b x y).links = s.links ∧
    (s.bookInserted p j b x y).rcm = s.rcm ∧ (s.bookInserted p j b x y).tlu = s.tlu ∧
    (s.bookInserted p j b x y).lmu = s.lmu ∧ (s.bookInserted p j b x y).stu = s.stu ∧
    (s.bookInserted p j b x y).cut = s.cut ∧ (s.bookInserted p j b x y).hos = s.hos := by
  generalize h : s.bookInserted p j b x y = u
  unfold State.bookInserted at h
  try dsimp only at h
  (repeat' split at h) <;> subst h <;> simp

@[simp] theorem waitRunOut_frame (s : State) (j : Job) :
    (s.waitRunOut j).pending = s.pending ∧ (s.waitRunOut j).ticks = s.ticks ∧ (s.waitRunOut j).pins = s.pins ∧
    (s.waitRunOut j).links = s.links ∧ (s.waitRunOut j).rcm = s.rcm ∧ (s.waitRunOut j).tlu = s.tlu ∧
    (s.waitRunOut j).lmu = s.lmu ∧ (s.waitRunOut j).stu = s.stu ∧ (s.waitRunOut j).cut = s.cut ∧
    (s.waitRunOut j).hos = s.hos := by
  generalize h : s.waitRunOut j = u
  unfold State.waitRunOut at h
  try dsimp only at h
  (repeat' split at h) <;> subst h <;> simp

@[simp] theorem setHold_frame (s : State) (on : Bool) (ps : List Printer) :
    (s.setHold on ps).pending = s.pending ∧ (s.setHold on ps).sent = s.sent ∧ (s.setHold on ps).ticks = s.ticks ∧
    (s.setHold on ps).pins = s.pins ∧ (s.setHold on ps).links = s.links ∧ (s.setHold on ps).rcm = s.rcm ∧
    (s.setHold on ps).hlc = s.hlc ∧ (s.setHold on ps).dju = s.dju ∧ (s.setHold on ps).tlu = s.tlu ∧
    (s.setHold on ps).lmu = s.lmu ∧ (s.setHold on ps).stu = s.stu ∧ (s.setHold on ps).slc = s.slc ∧
    (s.setHold on ps).pjq = s.pjq ∧ (s.setHold on ps).cut = s.cut ∧ (s.setHold on ps).hos = s.hos := by
  unfold State.setHold
  try dsimp only
  refine ⟨?_, ?_, ?_, ?_, ?_, ?_, ?_, ?_, ?_, ?_, ?_, ?_, ?_, ?_, ?_⟩
  · exact (foldl_keeps _ State.pending (fun s b => by (try split) <;> simp) _ _).trans (by simp)
  · exact (foldl_keeps _ State.sent (fun s b => by (try split) <;> simp) _ _).trans (by simp)
  · exact (foldl_keeps _ State.ticks (fun s b => by (try split) <;> simp) _ _).trans (by simp)
  · exact (foldl_keeps _ State.pins (fun s b => by (try split) <;> simp) _ _).trans (by simp)
  · exact (foldl_keeps _ State.links (fun s b => by (try split) <;> simp) _ _).trans (by simp)
  · exact (foldl_keeps _ State.rcm (fun s b => by (try split) <;> simp) _ _).trans (by simp)
  · exact (foldl_keeps _ State.hlc (fun s b => by (try split) <;> simp) _ _).trans (by simp)
  · exact (foldl_keeps _ State.dju (fun s b => by (try split) <;> simp) _ _).trans (by simp)
  · exact (foldl_keeps _ State.tlu (fun s b => by (try split) <;> simp) _ _).trans (by simp)
  · exact (foldl_keeps _ State.lmu (fun s b => by (try split) <;> simp) _ _).trans (by simp)
  · exact (foldl_keeps _ State.stu (fun s b => by (try split) <;> simp) _ _).trans (by simp)
  · exact (foldl_keeps _ State.slc (fun s b => by (try split) <;> simp) _ _).trans (by simp)
  · exact (foldl_keeps _ State.pjq (fun s b => by (try split) <;> simp) _ _).trans (by simp)
  · exact (foldl_keeps _ State.cut (fun s b => by (try split) <;> simp) _ _).trans (by simp)
  · exact (foldl_keeps _ State.hos (fun s b => by (try split) <;> simp) _ _).trans (by simp)

@[simp] theorem comeOnline_frame (s : State) (p : Printer) :
    (s.comeOnline p).pending = s.pending ∧ (s.comeOnline p).ticks = s.ticks ∧ (s.comeOnline p).pins = s.pins ∧
    (s.comeOnline p).links = s.links ∧ (s.comeOnline p).rcm = s.rcm ∧ (s.comeOnline p).dju = s.dju ∧
    (s.comeOnline p).tlu = s.tlu ∧ (s.comeOnline p).lmu = s.lmu ∧ (s.comeOnline p).stu = s.stu ∧
    (s.comeOnline p).cut = s.cut ∧ (s.comeOnline p).hos = s.hos := by
  simp [State.comeOnline]

@[simp] theorem failBound_frame (s : State) (p : Printer) (r : Reason) :
    (s.failBound p r).pending = s.pending ∧ (s.failBound p r).ticks = s.ticks ∧ (s.failBound p r).pins = s.pins ∧
    (s.failBound p r).links = s.links ∧ (s.failBound p r).rcm = s.rcm ∧ (s.failBound p r).tlu = s.tlu ∧
    (s.failBound p r).lmu = s.lmu ∧ (s.failBound p r).stu = s.stu ∧ (s.failBound p r).cut = s.cut ∧
    (s.failBound p r).hos = s.hos := by
  generalize h : s.failBound p r = u
  unfold State.failBound at h
  try dsimp only at h
  (repeat' split at h) <;> subst h <;> simp

@[simp] theorem readyAtWork_frame (s : State) (p : Printer) :
    (s.readyAtWork p).pending = s.pending ∧ (s.readyAtWork p).ticks = s.ticks ∧ (s.readyAtWork p).pins = s.pins ∧
    (s.readyAtWork p).links = s.links ∧ (s.readyAtWork p).rcm = s.rcm ∧ (s.readyAtWork p).tlu = s.tlu ∧
    (s.readyAtWork p).lmu = s.lmu ∧ (s.readyAtWork p).stu = s.stu ∧ (s.readyAtWork p).cut = s.cut ∧
    (s.readyAtWork p).hos = s.hos := by
  generalize h : s.readyAtWork p = u
  unfold State.readyAtWork at h
  try dsimp only at h
  (repeat' split at h) <;> subst h <;> simp

@[simp] theorem takeReady_frame (s : State) (p : Printer) :
    (s.takeReady p).pending = s.pending ∧ (s.takeReady p).ticks = s.ticks ∧ (s.takeReady p).pins = s.pins ∧
    (s.takeReady p).links = s.links ∧ (s.takeReady p).rcm = s.rcm ∧ (s.takeReady p).tlu = s.tlu ∧
    (s.takeReady p).lmu = s.lmu ∧ (s.takeReady p).stu = s.stu ∧ (s.takeReady p).cut = s.cut ∧
    (s.takeReady p).hos = s.hos := by
  generalize h : s.takeReady p = u
  unfold State.takeReady at h
  try unfold State.message at h
  try dsimp only at h
  (repeat' split at h) <;> subst h <;> simp

@[simp] theorem takeBookIn_frame (s : State) (p : Printer) (b : Text) (x y : Nat) :
    (s.takeBookIn p b x y).pending = s.pending ∧ (s.takeBookIn p b x y).ticks = s.ticks ∧
    (s.takeBookIn p b x y).pins = s.pins ∧ (s.takeBookIn p b x y).links = s.links ∧
    (s.takeBookIn p b x y).rcm = s.rcm ∧ (s.takeBookIn p b x y).tlu = s.tlu ∧ (s.takeBookIn p b x y).lmu = s.lmu ∧
    (s.takeBookIn p b x y).stu = s.stu ∧ (s.takeBookIn p b x y).cut = s.cut ∧ (s.takeBookIn p b x y).hos = s.hos := by
  generalize h : s.takeBookIn p b x y = u
  unfold State.takeBookIn at h
  try unfold State.message at h
  try dsimp only at h
  (repeat' split at h) <;> subst h <;> simp

@[simp] theorem takeLineDone_frame (s : State) (p : Printer) :
    (s.takeLineDone p).pending = s.pending ∧ (s.takeLineDone p).ticks = s.ticks ∧ (s.takeLineDone p).pins = s.pins ∧
    (s.takeLineDone p).links = s.links ∧ (s.takeLineDone p).rcm = s.rcm ∧ (s.takeLineDone p).tlu = s.tlu ∧
    (s.takeLineDone p).lmu = s.lmu ∧ (s.takeLineDone p).stu = s.stu ∧ (s.takeLineDone p).cut = s.cut ∧
    (s.takeLineDone p).hos = s.hos := by
  generalize h : s.takeLineDone p = u
  unfold State.takeLineDone at h
  try unfold State.message at h
  try dsimp only at h
  (repeat' split at h) <;> subst h <;> simp

@[simp] theorem takePageFull_frame (s : State) (p : Printer) :
    (s.takePageFull p).pending = s.pending ∧ (s.takePageFull p).ticks = s.ticks ∧ (s.takePageFull p).pins = s.pins ∧
    (s.takePageFull p).links = s.links ∧ (s.takePageFull p).rcm = s.rcm ∧ (s.takePageFull p).tlu = s.tlu ∧
    (s.takePageFull p).lmu = s.lmu ∧ (s.takePageFull p).stu = s.stu ∧ (s.takePageFull p).cut = s.cut ∧
    (s.takePageFull p).hos = s.hos := by
  generalize h : s.takePageFull p = u
  unfold State.takePageFull at h
  try unfold State.message at h
  try dsimp only at h
  (repeat' split at h) <;> subst h <;> simp

@[simp] theorem failPrinter_frame (s : State) (p : Printer) (c : FaultCode) :
    (s.failPrinter p c).pending = s.pending ∧ (s.failPrinter p c).ticks = s.ticks ∧
    (s.failPrinter p c).pins = s.pins ∧ (s.failPrinter p c).links = s.links ∧ (s.failPrinter p c).rcm = s.rcm ∧
    (s.failPrinter p c).tlu = s.tlu ∧ (s.failPrinter p c).lmu = s.lmu ∧ (s.failPrinter p c).stu = s.stu ∧
    (s.failPrinter p c).cut = s.cut ∧ (s.failPrinter p c).hos = s.hos := by
  simp [State.failPrinter]

@[simp] theorem losePrinter_frame (s : State) (p : Printer) :
    (s.losePrinter p).pending = s.pending ∧ (s.losePrinter p).ticks = s.ticks ∧ (s.losePrinter p).pins = s.pins ∧
    (s.losePrinter p).links = s.links ∧ (s.losePrinter p).rcm = s.rcm ∧ (s.losePrinter p).tlu = s.tlu ∧
    (s.losePrinter p).lmu = s.lmu ∧ (s.losePrinter p).stu = s.stu ∧ (s.losePrinter p).cut = s.cut ∧
    (s.losePrinter p).hos = s.hos := by
  simp [State.losePrinter]

@[simp] theorem probeRunOut_frame (s : State) (p : Printer) :
    (s.probeRunOut p).pending = s.pending ∧ (s.probeRunOut p).ticks = s.ticks ∧ (s.probeRunOut p).pins = s.pins ∧
    (s.probeRunOut p).links = s.links ∧ (s.probeRunOut p).rcm = s.rcm ∧ (s.probeRunOut p).tlu = s.tlu ∧
    (s.probeRunOut p).lmu = s.lmu ∧ (s.probeRunOut p).stu = s.stu ∧ (s.probeRunOut p).cut = s.cut ∧
    (s.probeRunOut p).hos = s.hos := by
  generalize h : s.probeRunOut p = u
  unfold State.probeRunOut at h
  try dsimp only at h
  (repeat' split at h) <;> subst h <;> simp

@[simp] theorem clearRunOut_frame (s : State) (p : Printer) :
    (s.clearRunOut p).pending = s.pending ∧ (s.clearRunOut p).ticks = s.ticks ∧ (s.clearRunOut p).pins = s.pins ∧
    (s.clearRunOut p).links = s.links ∧ (s.clearRunOut p).rcm = s.rcm ∧ (s.clearRunOut p).hlc = s.hlc ∧
    (s.clearRunOut p).dju = s.dju ∧ (s.clearRunOut p).tlu = s.tlu ∧ (s.clearRunOut p).lmu = s.lmu ∧
    (s.clearRunOut p).stu = s.stu ∧ (s.clearRunOut p).slc = s.slc ∧ (s.clearRunOut p).pjq = s.pjq ∧
    (s.clearRunOut p).cut = s.cut ∧ (s.clearRunOut p).hos = s.hos := by
  simp [State.clearRunOut]

@[simp] theorem sendTest_frame (s : State) :
    (s.sendTest).pending = s.pending ∧ (s.sendTest).ticks = s.ticks ∧ (s.sendTest).pins = s.pins ∧
    (s.sendTest).links = s.links ∧ (s.sendTest).rcm = s.rcm ∧ (s.sendTest).hlc = s.hlc ∧ (s.sendTest).dju = s.dju ∧
    (s.sendTest).tlu = s.tlu ∧ (s.sendTest).lmu = s.lmu ∧ (s.sendTest).stu = s.stu ∧ (s.sendTest).slc = s.slc ∧
    (s.sendTest).prc = s.prc ∧ (s.sendTest).pjq = s.pjq ∧ (s.sendTest).cut = s.cut := by
  simp [State.sendTest]

@[simp] theorem startTest_frame (s : State) (b : Batch) :
    (s.startTest b).pending = s.pending ∧ (s.startTest b).ticks = s.ticks ∧ (s.startTest b).pins = s.pins ∧
    (s.startTest b).links = s.links ∧ (s.startTest b).rcm = s.rcm ∧ (s.startTest b).hlc = s.hlc ∧
    (s.startTest b).dju = s.dju ∧ (s.startTest b).tlu = s.tlu ∧ (s.startTest b).lmu = s.lmu ∧
    (s.startTest b).stu = s.stu ∧ (s.startTest b).slc = s.slc ∧ (s.startTest b).prc = s.prc ∧
    (s.startTest b).pjq = s.pjq ∧ (s.startTest b).cut = s.cut := by
  simp [State.startTest]

@[simp] theorem autoSend_frame (s : State) :
    (s.autoSend).pending = s.pending ∧ (s.autoSend).ticks = s.ticks ∧ (s.autoSend).pins = s.pins ∧
    (s.autoSend).links = s.links ∧ (s.autoSend).rcm = s.rcm ∧ (s.autoSend).hlc = s.hlc ∧ (s.autoSend).dju = s.dju ∧
    (s.autoSend).tlu = s.tlu ∧ (s.autoSend).lmu = s.lmu ∧ (s.autoSend).stu = s.stu ∧ (s.autoSend).slc = s.slc ∧
    (s.autoSend).prc = s.prc ∧ (s.autoSend).pjq = s.pjq ∧ (s.autoSend).cut = s.cut := by
  generalize h : s.autoSend = u
  unfold State.autoSend at h
  try dsimp only at h
  (repeat' split at h) <;> subst h <;> simp

@[simp] theorem batchReady_frame (s : State) (c : CutRecord) :
    (s.batchReady c).pending = s.pending ∧ (s.batchReady c).ticks = s.ticks ∧ (s.batchReady c).pins = s.pins ∧
    (s.batchReady c).links = s.links ∧ (s.batchReady c).rcm = s.rcm ∧ (s.batchReady c).hlc = s.hlc ∧
    (s.batchReady c).dju = s.dju ∧ (s.batchReady c).tlu = s.tlu ∧ (s.batchReady c).lmu = s.lmu ∧
    (s.batchReady c).stu = s.stu ∧ (s.batchReady c).slc = s.slc ∧ (s.batchReady c).prc = s.prc ∧
    (s.batchReady c).pjq = s.pjq ∧ (s.batchReady c).cut = s.cut := by
  simp [State.batchReady]

@[simp] theorem suspend_frame (s : State) (w : SuspendReason) (i : SuspendItem) :
    (s.suspend w i).pending = s.pending ∧ (s.suspend w i).sent = s.sent ∧ (s.suspend w i).ticks = s.ticks ∧
    (s.suspend w i).pins = s.pins ∧ (s.suspend w i).links = s.links ∧ (s.suspend w i).rcm = s.rcm ∧
    (s.suspend w i).dju = s.dju ∧ (s.suspend w i).tlu = s.tlu ∧ (s.suspend w i).lmu = s.lmu ∧
    (s.suspend w i).stu = s.stu ∧ (s.suspend w i).slc = s.slc ∧ (s.suspend w i).prc = s.prc ∧
    (s.suspend w i).pjq = s.pjq ∧ (s.suspend w i).cut = s.cut := by
  simp [State.suspend]

@[simp] theorem complete_frame (s : State) (b : Batch) :
    (s.complete b).pending = s.pending ∧ (s.complete b).sent = s.sent ∧ (s.complete b).ticks = s.ticks ∧
    (s.complete b).pins = s.pins ∧ (s.complete b).links = s.links ∧ (s.complete b).rcm = s.rcm ∧
    (s.complete b).tlu = s.tlu ∧ (s.complete b).lmu = s.lmu ∧ (s.complete b).stu = s.stu ∧
    (s.complete b).slc = s.slc ∧ (s.complete b).prc = s.prc ∧ (s.complete b).pjq = s.pjq ∧
    (s.complete b).cut = s.cut := by
  simp [State.complete]

@[simp] theorem handBlock_frame (s : State) (n : Nat) :
    (s.handBlock n).pending = s.pending ∧ (s.handBlock n).ticks = s.ticks ∧ (s.handBlock n).pins = s.pins ∧
    (s.handBlock n).links = s.links ∧ (s.handBlock n).rcm = s.rcm ∧ (s.handBlock n).hlc = s.hlc ∧
    (s.handBlock n).dju = s.dju ∧ (s.handBlock n).tlu = s.tlu ∧ (s.handBlock n).lmu = s.lmu ∧
    (s.handBlock n).stu = s.stu ∧ (s.handBlock n).slc = s.slc ∧ (s.handBlock n).prc = s.prc ∧
    (s.handBlock n).pjq = s.pjq ∧ (s.handBlock n).cut = s.cut := by
  generalize h : s.handBlock n = u
  unfold State.handBlock at h
  try dsimp only at h
  (repeat' split at h) <;> subst h <;> simp

@[simp] theorem handBlocks_frame (s : State) (n : Nat) :
    (State.handBlocks n s).pending = s.pending ∧ (State.handBlocks n s).ticks = s.ticks ∧
    (State.handBlocks n s).pins = s.pins ∧ (State.handBlocks n s).links = s.links ∧
    (State.handBlocks n s).rcm = s.rcm ∧ (State.handBlocks n s).hlc = s.hlc ∧ (State.handBlocks n s).dju = s.dju ∧
    (State.handBlocks n s).tlu = s.tlu ∧ (State.handBlocks n s).lmu = s.lmu ∧ (State.handBlocks n s).stu = s.stu ∧
    (State.handBlocks n s).slc = s.slc ∧ (State.handBlocks n s).prc = s.prc ∧ (State.handBlocks n s).pjq = s.pjq ∧
    (State.handBlocks n s).cut = s.cut := by
  induction n generalizing s with
  | zero => simp [State.handBlocks]
  | succ n ih =>
    generalize h : State.handBlocks (n + 1) s = u
    unfold State.handBlocks at h
    try dsimp only at h
    (repeat' split at h) <;> subst h <;> simp [ih]

@[simp] theorem hand_frame (s : State) :
    (s.hand).pending = s.pending ∧ (s.hand).ticks = s.ticks ∧ (s.hand).pins = s.pins ∧ (s.hand).links = s.links ∧
    (s.hand).rcm = s.rcm ∧ (s.hand).hlc = s.hlc ∧ (s.hand).dju = s.dju ∧ (s.hand).tlu = s.tlu ∧ (s.hand).lmu = s.lmu ∧
    (s.hand).stu = s.stu ∧ (s.hand).slc = s.slc ∧ (s.hand).prc = s.prc ∧ (s.hand).pjq = s.pjq ∧
    (s.hand).cut = s.cut := by
  simp [State.hand]

@[simp] theorem resend_frame (s : State) (n : Nat) :
    (s.resend n).pending = s.pending ∧ (s.resend n).ticks = s.ticks ∧ (s.resend n).pins = s.pins ∧
    (s.resend n).links = s.links ∧ (s.resend n).rcm = s.rcm ∧ (s.resend n).hlc = s.hlc ∧ (s.resend n).dju = s.dju ∧
    (s.resend n).tlu = s.tlu ∧ (s.resend n).lmu = s.lmu ∧ (s.resend n).stu = s.stu ∧ (s.resend n).slc = s.slc ∧
    (s.resend n).prc = s.prc ∧ (s.resend n).pjq = s.pjq ∧ (s.resend n).cut = s.cut := by
  simp [State.resend]

@[simp] theorem takeAck_frame (s : State) (n : Nat) :
    (s.takeAck n).pending = s.pending ∧ (s.takeAck n).ticks = s.ticks ∧ (s.takeAck n).pins = s.pins ∧
    (s.takeAck n).links = s.links ∧ (s.takeAck n).rcm = s.rcm ∧ (s.takeAck n).tlu = s.tlu ∧
    (s.takeAck n).lmu = s.lmu ∧ (s.takeAck n).stu = s.stu ∧ (s.takeAck n).slc = s.slc ∧ (s.takeAck n).prc = s.prc ∧
    (s.takeAck n).pjq = s.pjq ∧ (s.takeAck n).cut = s.cut := by
  generalize h : s.takeAck n = u
  unfold State.takeAck at h
  try dsimp only at h
  (repeat' split at h) <;> subst h <;> simp

@[simp] theorem takeNak_frame (s : State) (n : Nat) :
    (s.takeNak n).pending = s.pending ∧ (s.takeNak n).ticks = s.ticks ∧ (s.takeNak n).pins = s.pins ∧
    (s.takeNak n).links = s.links ∧ (s.takeNak n).rcm = s.rcm ∧ (s.takeNak n).dju = s.dju ∧
    (s.takeNak n).tlu = s.tlu ∧ (s.takeNak n).lmu = s.lmu ∧ (s.takeNak n).stu = s.stu ∧ (s.takeNak n).slc = s.slc ∧
    (s.takeNak n).prc = s.prc ∧ (s.takeNak n).pjq = s.pjq ∧ (s.takeNak n).cut = s.cut := by
  generalize h : s.takeNak n = u
  unfold State.takeNak at h
  try dsimp only at h
  (repeat' split at h) <;> subst h <;> simp

@[simp] theorem takeHold_frame (s : State) :
    (s.takeHold).pending = s.pending ∧ (s.takeHold).sent = s.sent ∧ (s.takeHold).ticks = s.ticks ∧
    (s.takeHold).pins = s.pins ∧ (s.takeHold).links = s.links ∧ (s.takeHold).rcm = s.rcm ∧ (s.takeHold).hlc = s.hlc ∧
    (s.takeHold).dju = s.dju ∧ (s.takeHold).tlu = s.tlu ∧ (s.takeHold).lmu = s.lmu ∧ (s.takeHold).stu = s.stu ∧
    (s.takeHold).slc = s.slc ∧ (s.takeHold).prc = s.prc ∧ (s.takeHold).pjq = s.pjq ∧ (s.takeHold).cut = s.cut := by
  generalize h : s.takeHold = u
  unfold State.takeHold at h
  try dsimp only at h
  (repeat' split at h) <;> subst h <;> simp

@[simp] theorem takeGo_frame (s : State) :
    (s.takeGo).pending = s.pending ∧ (s.takeGo).ticks = s.ticks ∧ (s.takeGo).pins = s.pins ∧
    (s.takeGo).links = s.links ∧ (s.takeGo).rcm = s.rcm ∧ (s.takeGo).hlc = s.hlc ∧ (s.takeGo).dju = s.dju ∧
    (s.takeGo).tlu = s.tlu ∧ (s.takeGo).lmu = s.lmu ∧ (s.takeGo).stu = s.stu ∧ (s.takeGo).slc = s.slc ∧
    (s.takeGo).prc = s.prc ∧ (s.takeGo).pjq = s.pjq ∧ (s.takeGo).cut = s.cut := by
  generalize h : s.takeGo = u
  unfold State.takeGo at h
  try dsimp only at h
  (repeat' split at h) <;> subst h <;> simp

@[simp] theorem takeReject_frame (s : State) (c : Nat) :
    (s.takeReject c).pending = s.pending ∧ (s.takeReject c).sent = s.sent ∧ (s.takeReject c).ticks = s.ticks ∧
    (s.takeReject c).pins = s.pins ∧ (s.takeReject c).links = s.links ∧ (s.takeReject c).rcm = s.rcm ∧
    (s.takeReject c).dju = s.dju ∧ (s.takeReject c).tlu = s.tlu ∧ (s.takeReject c).lmu = s.lmu ∧
    (s.takeReject c).stu = s.stu ∧ (s.takeReject c).slc = s.slc ∧ (s.takeReject c).prc = s.prc ∧
    (s.takeReject c).pjq = s.pjq ∧ (s.takeReject c).cut = s.cut := by
  generalize h : s.takeReject c = u
  unfold State.takeReject at h
  try dsimp only at h
  (repeat' split at h) <;> subst h <;> simp

@[simp] theorem settle_frame (s : State) (n : Nat) :
    (s.settle n).pending = s.pending ∧ (s.settle n).ticks = s.ticks ∧ (s.settle n).pins = s.pins ∧
    (s.settle n).links = s.links ∧ (s.settle n).rcm = s.rcm ∧ (s.settle n).dju = s.dju ∧ (s.settle n).tlu = s.tlu ∧
    (s.settle n).lmu = s.lmu ∧ (s.settle n).stu = s.stu ∧ (s.settle n).slc = s.slc ∧ (s.settle n).prc = s.prc ∧
    (s.settle n).pjq = s.pjq ∧ (s.settle n).cut = s.cut := by
  generalize h : s.settle n = u
  unfold State.settle at h
  try dsimp only at h
  (repeat' split at h) <;> subst h <;> simp

@[simp] theorem takeEcho_frame (s : State) (x : Text) :
    (s.takeEcho x).pending = s.pending ∧ (s.takeEcho x).ticks = s.ticks ∧ (s.takeEcho x).pins = s.pins ∧
    (s.takeEcho x).links = s.links ∧ (s.takeEcho x).rcm = s.rcm ∧ (s.takeEcho x).dju = s.dju ∧
    (s.takeEcho x).tlu = s.tlu ∧ (s.takeEcho x).lmu = s.lmu ∧ (s.takeEcho x).stu = s.stu ∧
    (s.takeEcho x).slc = s.slc ∧ (s.takeEcho x).prc = s.prc ∧ (s.takeEcho x).pjq = s.pjq ∧
    (s.takeEcho x).cut = s.cut := by
  generalize h : s.takeEcho x = u
  unfold State.takeEcho at h
  try dsimp only at h
  (repeat' split at h) <;> subst h <;> simp

@[simp] theorem ackRunOut_frame (s : State) :
    (s.ackRunOut).pending = s.pending ∧ (s.ackRunOut).ticks = s.ticks ∧ (s.ackRunOut).pins = s.pins ∧
    (s.ackRunOut).links = s.links ∧ (s.ackRunOut).rcm = s.rcm ∧ (s.ackRunOut).dju = s.dju ∧
    (s.ackRunOut).tlu = s.tlu ∧ (s.ackRunOut).lmu = s.lmu ∧ (s.ackRunOut).stu = s.stu ∧ (s.ackRunOut).slc = s.slc ∧
    (s.ackRunOut).prc = s.prc ∧ (s.ackRunOut).pjq = s.pjq ∧ (s.ackRunOut).cut = s.cut := by
  generalize h : s.ackRunOut = u
  unfold State.ackRunOut at h
  try dsimp only at h
  (repeat' split at h) <;> subst h <;> simp

@[simp] theorem echoRunOut_frame (s : State) :
    (s.echoRunOut).pending = s.pending ∧ (s.echoRunOut).ticks = s.ticks ∧ (s.echoRunOut).pins = s.pins ∧
    (s.echoRunOut).links = s.links ∧ (s.echoRunOut).rcm = s.rcm ∧ (s.echoRunOut).dju = s.dju ∧
    (s.echoRunOut).tlu = s.tlu ∧ (s.echoRunOut).lmu = s.lmu ∧ (s.echoRunOut).stu = s.stu ∧
    (s.echoRunOut).slc = s.slc ∧ (s.echoRunOut).prc = s.prc ∧ (s.echoRunOut).pjq = s.pjq ∧
    (s.echoRunOut).cut = s.cut := by
  generalize h : s.echoRunOut = u
  unfold State.echoRunOut at h
  try dsimp only at h
  (repeat' split at h) <;> subst h <;> simp

@[simp] theorem holdRunOut_frame (s : State) :
    (s.holdRunOut).pending = s.pending ∧ (s.holdRunOut).sent = s.sent ∧ (s.holdRunOut).ticks = s.ticks ∧
    (s.holdRunOut).pins = s.pins ∧ (s.holdRunOut).links = s.links ∧ (s.holdRunOut).rcm = s.rcm ∧
    (s.holdRunOut).dju = s.dju ∧ (s.holdRunOut).tlu = s.tlu ∧ (s.holdRunOut).lmu = s.lmu ∧
    (s.holdRunOut).stu = s.stu ∧ (s.holdRunOut).slc = s.slc ∧ (s.holdRunOut).prc = s.prc ∧
    (s.holdRunOut).pjq = s.pjq ∧ (s.holdRunOut).cut = s.cut := by
  generalize h : s.holdRunOut = u
  unfold State.holdRunOut at h
  try dsimp only at h
  (repeat' split at h) <;> subst h <;> simp

@[simp] theorem loseCarrier_frame (s : State) :
    (s.loseCarrier).pending = s.pending ∧ (s.loseCarrier).sent = s.sent ∧ (s.loseCarrier).ticks = s.ticks ∧
    (s.loseCarrier).pins = s.pins ∧ (s.loseCarrier).links = s.links ∧ (s.loseCarrier).rcm = s.rcm ∧
    (s.loseCarrier).dju = s.dju ∧ (s.loseCarrier).tlu = s.tlu ∧ (s.loseCarrier).lmu = s.lmu ∧
    (s.loseCarrier).stu = s.stu ∧ (s.loseCarrier).slc = s.slc ∧ (s.loseCarrier).prc = s.prc ∧
    (s.loseCarrier).pjq = s.pjq ∧ (s.loseCarrier).cut = s.cut := by
  generalize h : s.loseCarrier = u
  unfold State.loseCarrier at h
  try dsimp only at h
  (repeat' split at h) <;> subst h <;> simp

@[simp] theorem dropHold_frame (s : State) (r : TillRec) :
    (s.dropHold r).pending = s.pending ∧ (s.dropHold r).sent = s.sent ∧ (s.dropHold r).ticks = s.ticks ∧
    (s.dropHold r).pins = s.pins ∧ (s.dropHold r).links = s.links ∧ (s.dropHold r).rcm = s.rcm ∧
    (s.dropHold r).hlc = s.hlc ∧ (s.dropHold r).dju = s.dju ∧ (s.dropHold r).tlu = s.tlu ∧
    (s.dropHold r).lmu = s.lmu ∧ (s.dropHold r).prc = s.prc ∧ (s.dropHold r).pjq = s.pjq ∧
    (s.dropHold r).cut = s.cut ∧ (s.dropHold r).hos = s.hos := by
  generalize h : s.dropHold r = u
  unfold State.dropHold at h
  try dsimp only at h
  (repeat' split at h) <;> subst h <;> simp

@[simp] theorem cutTills_frame (s : State) :
    (s.cutTills).pending = s.pending ∧ (s.cutTills).sent = s.sent ∧ (s.cutTills).ticks = s.ticks ∧
    (s.cutTills).pins = s.pins ∧ (s.cutTills).links = s.links ∧ (s.cutTills).rcm = s.rcm ∧ (s.cutTills).hlc = s.hlc ∧
    (s.cutTills).dju = s.dju ∧ (s.cutTills).lmu = s.lmu ∧ (s.cutTills).prc = s.prc ∧ (s.cutTills).pjq = s.pjq ∧
    (s.cutTills).cut = s.cut ∧ (s.cutTills).hos = s.hos := by
  unfold State.cutTills
  try dsimp only
  refine ⟨?_, ?_, ?_, ?_, ?_, ?_, ?_, ?_, ?_, ?_, ?_, ?_, ?_⟩
  · exact (foldl_keeps _ State.pending (fun s b => by (try split) <;> simp) _ _).trans (by simp)
  · exact (foldl_keeps _ State.sent (fun s b => by (try split) <;> simp) _ _).trans (by simp)
  · exact (foldl_keeps _ State.ticks (fun s b => by (try split) <;> simp) _ _).trans (by simp)
  · exact (foldl_keeps _ State.pins (fun s b => by (try split) <;> simp) _ _).trans (by simp)
  · exact (foldl_keeps _ State.links (fun s b => by (try split) <;> simp) _ _).trans (by simp)
  · exact (foldl_keeps _ State.rcm (fun s b => by (try split) <;> simp) _ _).trans (by simp)
  · exact (foldl_keeps _ State.hlc (fun s b => by (try split) <;> simp) _ _).trans (by simp)
  · exact (foldl_keeps _ State.dju (fun s b => by (try split) <;> simp) _ _).trans (by simp)
  · exact (foldl_keeps _ State.lmu (fun s b => by (try split) <;> simp) _ _).trans (by simp)
  · exact (foldl_keeps _ State.prc (fun s b => by (try split) <;> simp) _ _).trans (by simp)
  · exact (foldl_keeps _ State.pjq (fun s b => by (try split) <;> simp) _ _).trans (by simp)
  · exact (foldl_keeps _ State.cut (fun s b => by (try split) <;> simp) _ _).trans (by simp)
  · exact (foldl_keeps _ State.hos (fun s b => by (try split) <;> simp) _ _).trans (by simp)

@[simp] theorem takeCut_frame (s : State) (c : CutCause) :
    (s.takeCut c).pending = s.pending ∧ (s.takeCut c).ticks = s.ticks ∧ (s.takeCut c).pins = s.pins ∧
    (s.takeCut c).links = s.links ∧ (s.takeCut c).rcm = s.rcm ∧ (s.takeCut c).lmu = s.lmu ∧
    (s.takeCut c).prc = s.prc ∧ (s.takeCut c).pjq = s.pjq := by
  generalize h : s.takeCut c = u
  unfold State.takeCut at h
  try dsimp only at h
  (repeat' split at h) <;> subst h <;> simp

@[simp] theorem gateCheck_frame (s : State) :
    (s.gateCheck).pending = s.pending ∧ (s.gateCheck).ticks = s.ticks ∧ (s.gateCheck).pins = s.pins ∧
    (s.gateCheck).links = s.links ∧ (s.gateCheck).rcm = s.rcm ∧ (s.gateCheck).lmu = s.lmu ∧
    (s.gateCheck).prc = s.prc ∧ (s.gateCheck).pjq = s.pjq := by
  generalize h : s.gateCheck = u
  unfold State.gateCheck at h
  try dsimp only at h
  (repeat' split at h) <;> subst h <;> simp

@[simp] theorem trigger_frame (s : State) (a : Arm) :
    (s.trigger a).pending = s.pending ∧ (s.trigger a).ticks = s.ticks ∧ (s.trigger a).pins = s.pins ∧
    (s.trigger a).links = s.links ∧ (s.trigger a).rcm = s.rcm ∧ (s.trigger a).lmu = s.lmu ∧
    (s.trigger a).prc = s.prc ∧ (s.trigger a).pjq = s.pjq := by
  generalize h : s.trigger a = u
  unfold State.trigger at h
  try dsimp only at h
  (repeat' split at h) <;> subst h <;> simp

@[simp] theorem compareTrigger_frame (s : State) :
    (s.compareTrigger).pending = s.pending ∧ (s.compareTrigger).ticks = s.ticks ∧ (s.compareTrigger).pins = s.pins ∧
    (s.compareTrigger).links = s.links ∧ (s.compareTrigger).rcm = s.rcm ∧ (s.compareTrigger).lmu = s.lmu ∧
    (s.compareTrigger).prc = s.prc ∧ (s.compareTrigger).pjq = s.pjq := by
  generalize h : s.compareTrigger = u
  unfold State.compareTrigger at h
  try dsimp only at h
  (repeat' split at h) <;> subst h <;> simp

@[simp] theorem showArmed_frame (s : State) :
    (s.showArmed).pending = s.pending ∧ (s.showArmed).sent = s.sent ∧ (s.showArmed).ticks = s.ticks ∧
    (s.showArmed).pins = s.pins ∧ (s.showArmed).links = s.links ∧ (s.showArmed).rcm = s.rcm ∧
    (s.showArmed).hlc = s.hlc ∧ (s.showArmed).dju = s.dju ∧ (s.showArmed).tlu = s.tlu ∧ (s.showArmed).lmu = s.lmu ∧
    (s.showArmed).stu = s.stu ∧ (s.showArmed).prc = s.prc ∧ (s.showArmed).pjq = s.pjq ∧ (s.showArmed).cut = s.cut ∧
    (s.showArmed).hos = s.hos := by
  generalize h : s.showArmed = u
  unfold State.showArmed at h
  try dsimp only at h
  (repeat' split at h) <;> subst h <;> simp

@[simp] theorem takeHoldOf_frame (s : State) (st : Station) (t : Till) :
    (s.takeHoldOf st t).pending = s.pending ∧ (s.takeHoldOf st t).sent = s.sent ∧
    (s.takeHoldOf st t).ticks = s.ticks ∧ (s.takeHoldOf st t).pins = s.pins ∧ (s.takeHoldOf st t).links = s.links ∧
    (s.takeHoldOf st t).rcm = s.rcm ∧ (s.takeHoldOf st t).hlc = s.hlc ∧ (s.takeHoldOf st t).dju = s.dju ∧
    (s.takeHoldOf st t).lmu = s.lmu ∧ (s.takeHoldOf st t).prc = s.prc ∧ (s.takeHoldOf st t).pjq = s.pjq ∧
    (s.takeHoldOf st t).cut = s.cut ∧ (s.takeHoldOf st t).hos = s.hos := by
  simp [State.takeHoldOf]

@[simp] theorem endHoldOf_frame (s : State) (st : Station) (t : Till) (x : TillState) :
    (s.endHoldOf st t x).pending = s.pending ∧ (s.endHoldOf st t x).sent = s.sent ∧
    (s.endHoldOf st t x).ticks = s.ticks ∧ (s.endHoldOf st t x).pins = s.pins ∧ (s.endHoldOf st t x).links = s.links ∧
    (s.endHoldOf st t x).rcm = s.rcm ∧ (s.endHoldOf st t x).hlc = s.hlc ∧ (s.endHoldOf st t x).dju = s.dju ∧
    (s.endHoldOf st t x).lmu = s.lmu ∧ (s.endHoldOf st t x).prc = s.prc ∧ (s.endHoldOf st t x).pjq = s.pjq ∧
    (s.endHoldOf st t x).cut = s.cut ∧ (s.endHoldOf st t x).hos = s.hos := by
  simp [State.endHoldOf]

@[simp] theorem lapse_frame (s : State) (st : Station) :
    (s.lapse st).pending = s.pending ∧ (s.lapse st).sent = s.sent ∧ (s.lapse st).ticks = s.ticks ∧
    (s.lapse st).pins = s.pins ∧ (s.lapse st).links = s.links ∧ (s.lapse st).rcm = s.rcm ∧ (s.lapse st).hlc = s.hlc ∧
    (s.lapse st).dju = s.dju ∧ (s.lapse st).prc = s.prc ∧ (s.lapse st).pjq = s.pjq ∧ (s.lapse st).cut = s.cut ∧
    (s.lapse st).hos = s.hos := by
  generalize h : s.lapse st = u
  unfold State.lapse at h
  try dsimp only at h
  (repeat' split at h) <;> subst h <;> simp

@[simp] theorem postTo_frame (s : State) (k : Kind) (st : Station) (t : Till) (b : List (Denom × Nat)) (a : Option Text) :
    (s.postTo k st t b a).pending = s.pending ∧ (s.postTo k st t b a).sent = s.sent ∧
    (s.postTo k st t b a).ticks = s.ticks ∧ (s.postTo k st t b a).pins = s.pins ∧
    (s.postTo k st t b a).links = s.links ∧ (s.postTo k st t b a).rcm = s.rcm ∧ (s.postTo k st t b a).lmu = s.lmu ∧
    (s.postTo k st t b a).stu = s.stu ∧ (s.postTo k st t b a).slc = s.slc ∧ (s.postTo k st t b a).prc = s.prc ∧
    (s.postTo k st t b a).pjq = s.pjq ∧ (s.postTo k st t b a).cut = s.cut ∧ (s.postTo k st t b a).hos = s.hos := by
  simp [State.postTo]

@[simp] theorem voidTarget_frame (s : State) (e : Entry) :
    (s.voidTarget e).pending = s.pending ∧ (s.voidTarget e).sent = s.sent ∧ (s.voidTarget e).ticks = s.ticks ∧
    (s.voidTarget e).pins = s.pins ∧ (s.voidTarget e).links = s.links ∧ (s.voidTarget e).rcm = s.rcm ∧
    (s.voidTarget e).hlc = s.hlc ∧ (s.voidTarget e).tlu = s.tlu ∧ (s.voidTarget e).lmu = s.lmu ∧
    (s.voidTarget e).stu = s.stu ∧ (s.voidTarget e).slc = s.slc ∧ (s.voidTarget e).prc = s.prc ∧
    (s.voidTarget e).cut = s.cut ∧ (s.voidTarget e).hos = s.hos := by
  generalize h : s.voidTarget e = u
  unfold State.voidTarget at h
  try dsimp only at h
  (repeat' split at h) <;> subst h <;> simp

@[simp] theorem applyVoid_frame (s : State) (st : Station) (e : Entry) (b : List (Denom × Nat)) :
    (s.applyVoid st e b).pending = s.pending ∧ (s.applyVoid st e b).sent = s.sent ∧
    (s.applyVoid st e b).ticks = s.ticks ∧ (s.applyVoid st e b).pins = s.pins ∧ (s.applyVoid st e b).links = s.links ∧
    (s.applyVoid st e b).rcm = s.rcm ∧ (s.applyVoid st e b).lmu = s.lmu ∧ (s.applyVoid st e b).stu = s.stu ∧
    (s.applyVoid st e b).slc = s.slc ∧ (s.applyVoid st e b).prc = s.prc ∧ (s.applyVoid st e b).cut = s.cut ∧
    (s.applyVoid st e b).hos = s.hos := by
  simp [State.applyVoid]

@[simp] theorem adjust_frame (s : State) (st : Station) (t : Till) (c : Counts) (v : Vector Int 10) :
    (s.adjust st t c v).pending = s.pending ∧ (s.adjust st t c v).sent = s.sent ∧
    (s.adjust st t c v).ticks = s.ticks ∧ (s.adjust st t c v).pins = s.pins ∧ (s.adjust st t c v).links = s.links ∧
    (s.adjust st t c v).rcm = s.rcm ∧ (s.adjust st t c v).lmu = s.lmu ∧ (s.adjust st t c v).stu = s.stu ∧
    (s.adjust st t c v).slc = s.slc ∧ (s.adjust st t c v).prc = s.prc ∧ (s.adjust st t c v).pjq = s.pjq ∧
    (s.adjust st t c v).cut = s.cut ∧ (s.adjust st t c v).hos = s.hos := by
  simp [State.adjust]

@[simp] theorem balance_frame (s : State) (st : Station) (t : Till) :
    (s.balance st t).pending = s.pending ∧ (s.balance st t).sent = s.sent ∧ (s.balance st t).ticks = s.ticks ∧
    (s.balance st t).pins = s.pins ∧ (s.balance st t).links = s.links ∧ (s.balance st t).rcm = s.rcm ∧
    (s.balance st t).hlc = s.hlc ∧ (s.balance st t).dju = s.dju ∧ (s.balance st t).stu = s.stu ∧
    (s.balance st t).prc = s.prc ∧ (s.balance st t).pjq = s.pjq ∧ (s.balance st t).cut = s.cut ∧
    (s.balance st t).hos = s.hos := by
  simp [State.balance]

@[simp] theorem removeTransfer_frame (s : State) (x : Transfer) :
    (s.removeTransfer x).pending = s.pending ∧ (s.removeTransfer x).sent = s.sent ∧
    (s.removeTransfer x).ticks = s.ticks ∧ (s.removeTransfer x).pins = s.pins ∧ (s.removeTransfer x).links = s.links ∧
    (s.removeTransfer x).rcm = s.rcm ∧ (s.removeTransfer x).hlc = s.hlc ∧ (s.removeTransfer x).dju = s.dju ∧
    (s.removeTransfer x).lmu = s.lmu ∧ (s.removeTransfer x).stu = s.stu ∧ (s.removeTransfer x).prc = s.prc ∧
    (s.removeTransfer x).pjq = s.pjq ∧ (s.removeTransfer x).cut = s.cut ∧ (s.removeTransfer x).hos = s.hos := by
  simp [State.removeTransfer]

@[simp] theorem offer_frame (s : State) (st : Station) (a b : Till) (c : List (Denom × Nat)) (n : Nat) :
    (s.offer st a b c n).pending = s.pending ∧ (s.offer st a b c n).sent = s.sent ∧
    (s.offer st a b c n).ticks = s.ticks ∧ (s.offer st a b c n).pins = s.pins ∧ (s.offer st a b c n).links = s.links ∧
    (s.offer st a b c n).rcm = s.rcm ∧ (s.offer st a b c n).lmu = s.lmu ∧ (s.offer st a b c n).stu = s.stu ∧
    (s.offer st a b c n).prc = s.prc ∧ (s.offer st a b c n).pjq = s.pjq ∧ (s.offer st a b c n).cut = s.cut ∧
    (s.offer st a b c n).hos = s.hos := by
  simp [State.offer]

@[simp] theorem settleTransfer_frame (s : State) (x : Transfer) (k : Kind) (st : Station) (a b : Till) :
    (s.settleTransfer x k st a b).pending = s.pending ∧ (s.settleTransfer x k st a b).sent = s.sent ∧
    (s.settleTransfer x k st a b).ticks = s.ticks ∧ (s.settleTransfer x k st a b).pins = s.pins ∧
    (s.settleTransfer x k st a b).links = s.links ∧ (s.settleTransfer x k st a b).rcm = s.rcm ∧
    (s.settleTransfer x k st a b).lmu = s.lmu ∧ (s.settleTransfer x k st a b).stu = s.stu ∧
    (s.settleTransfer x k st a b).prc = s.prc ∧ (s.settleTransfer x k st a b).pjq = s.pjq ∧
    (s.settleTransfer x k st a b).cut = s.cut ∧ (s.settleTransfer x k st a b).hos = s.hos := by
  simp [State.settleTransfer]

@[simp] theorem returnTransfer_frame (s : State) (x : Transfer) :
    (s.returnTransfer x).pending = s.pending ∧ (s.returnTransfer x).ticks = s.ticks ∧
    (s.returnTransfer x).pins = s.pins ∧ (s.returnTransfer x).links = s.links ∧ (s.returnTransfer x).rcm = s.rcm ∧
    (s.returnTransfer x).prc = s.prc ∧ (s.returnTransfer x).pjq = s.pjq := by
  simp [State.returnTransfer]

@[simp] theorem expire_frame (s : State) (x : Transfer) :
    (s.expire x).pending = s.pending ∧ (s.expire x).ticks = s.ticks ∧ (s.expire x).pins = s.pins ∧
    (s.expire x).links = s.links ∧ (s.expire x).rcm = s.rcm ∧ (s.expire x).prc = s.prc ∧
    (s.expire x).pjq = s.pjq := by
  generalize h : s.expire x = u
  unfold State.expire at h
  try dsimp only at h
  (repeat' split at h) <;> subst h <;> simp

@[simp] theorem loseStation_frame (s : State) (st : Station) :
    (s.loseStation st).pending = s.pending ∧ (s.loseStation st).sent = s.sent ∧ (s.loseStation st).ticks = s.ticks ∧
    (s.loseStation st).pins = s.pins ∧ (s.loseStation st).links = s.links ∧ (s.loseStation st).rcm = s.rcm ∧
    (s.loseStation st).dju = s.dju ∧ (s.loseStation st).tlu = s.tlu ∧ (s.loseStation st).lmu = s.lmu ∧
    (s.loseStation st).slc = s.slc ∧ (s.loseStation st).prc = s.prc ∧ (s.loseStation st).pjq = s.pjq ∧
    (s.loseStation st).cut = s.cut ∧ (s.loseStation st).hos = s.hos := by
  generalize h : s.loseStation st = u
  unfold State.loseStation at h
  try dsimp only at h
  (repeat' split at h) <;> subst h <;> simp

@[simp] theorem restartStations_frame (s : State) :
    (s.restartStations).pending = s.pending ∧ (s.restartStations).sent = s.sent ∧
    (s.restartStations).ticks = s.ticks ∧ (s.restartStations).pins = s.pins ∧ (s.restartStations).links = s.links ∧
    (s.restartStations).rcm = s.rcm ∧ (s.restartStations).dju = s.dju ∧ (s.restartStations).tlu = s.tlu ∧
    (s.restartStations).lmu = s.lmu ∧ (s.restartStations).slc = s.slc ∧ (s.restartStations).prc = s.prc ∧
    (s.restartStations).pjq = s.pjq ∧ (s.restartStations).cut = s.cut ∧ (s.restartStations).hos = s.hos := by
  unfold State.restartStations
  try dsimp only
  refine ⟨?_, ?_, ?_, ?_, ?_, ?_, ?_, ?_, ?_, ?_, ?_, ?_, ?_, ?_⟩
  · exact (foldl_keeps _ State.pending (fun s b => by (try split) <;> simp) _ _).trans (by simp)
  · exact (foldl_keeps _ State.sent (fun s b => by (try split) <;> simp) _ _).trans (by simp)
  · exact (foldl_keeps _ State.ticks (fun s b => by (try split) <;> simp) _ _).trans (by simp)
  · exact (foldl_keeps _ State.pins (fun s b => by (try split) <;> simp) _ _).trans (by simp)
  · exact (foldl_keeps _ State.links (fun s b => by (try split) <;> simp) _ _).trans (by simp)
  · exact (foldl_keeps _ State.rcm (fun s b => by (try split) <;> simp) _ _).trans (by simp)
  · exact (foldl_keeps _ State.dju (fun s b => by (try split) <;> simp) _ _).trans (by simp)
  · exact (foldl_keeps _ State.tlu (fun s b => by (try split) <;> simp) _ _).trans (by simp)
  · exact (foldl_keeps _ State.lmu (fun s b => by (try split) <;> simp) _ _).trans (by simp)
  · exact (foldl_keeps _ State.slc (fun s b => by (try split) <;> simp) _ _).trans (by simp)
  · exact (foldl_keeps _ State.prc (fun s b => by (try split) <;> simp) _ _).trans (by simp)
  · exact (foldl_keeps _ State.pjq (fun s b => by (try split) <;> simp) _ _).trans (by simp)
  · exact (foldl_keeps _ State.cut (fun s b => by (try split) <;> simp) _ _).trans (by simp)
  · exact (foldl_keeps _ State.hos (fun s b => by (try split) <;> simp) _ _).trans (by simp)

@[simp] theorem interruptJobs_frame (s : State) :
    (s.interruptJobs).pending = s.pending ∧ (s.interruptJobs).sent = s.sent ∧ (s.interruptJobs).ticks = s.ticks ∧
    (s.interruptJobs).pins = s.pins ∧ (s.interruptJobs).links = s.links ∧ (s.interruptJobs).rcm = s.rcm ∧
    (s.interruptJobs).tlu = s.tlu ∧ (s.interruptJobs).lmu = s.lmu ∧ (s.interruptJobs).stu = s.stu ∧
    (s.interruptJobs).cut = s.cut ∧ (s.interruptJobs).hos = s.hos := by
  unfold State.interruptJobs
  try dsimp only
  refine ⟨?_, ?_, ?_, ?_, ?_, ?_, ?_, ?_, ?_, ?_, ?_⟩
  · exact (foldl_keeps _ State.pending (fun s b => by (try split) <;> simp) _ _).trans (by simp)
  · exact (foldl_keeps _ State.sent (fun s b => by (try split) <;> simp) _ _).trans (by simp)
  · exact (foldl_keeps _ State.ticks (fun s b => by (try split) <;> simp) _ _).trans (by simp)
  · exact (foldl_keeps _ State.pins (fun s b => by (try split) <;> simp) _ _).trans (by simp)
  · exact (foldl_keeps _ State.links (fun s b => by (try split) <;> simp) _ _).trans (by simp)
  · exact (foldl_keeps _ State.rcm (fun s b => by (try split) <;> simp) _ _).trans (by simp)
  · exact (foldl_keeps _ State.tlu (fun s b => by (try split) <;> simp) _ _).trans (by simp)
  · exact (foldl_keeps _ State.lmu (fun s b => by (try split) <;> simp) _ _).trans (by simp)
  · exact (foldl_keeps _ State.stu (fun s b => by (try split) <;> simp) _ _).trans (by simp)
  · exact (foldl_keeps _ State.cut (fun s b => by (try split) <;> simp) _ _).trans (by simp)
  · exact (foldl_keeps _ State.hos (fun s b => by (try split) <;> simp) _ _).trans (by simp)

@[simp] theorem restartIndicators_frame (s : State) :
    (s.restartIndicators).pending = s.pending ∧ (s.restartIndicators).sent = s.sent ∧
    (s.restartIndicators).ticks = s.ticks ∧ (s.restartIndicators).pins = s.pins ∧
    (s.restartIndicators).links = s.links ∧ (s.restartIndicators).rcm = s.rcm ∧ (s.restartIndicators).hlc = s.hlc ∧
    (s.restartIndicators).dju = s.dju ∧ (s.restartIndicators).tlu = s.tlu ∧ (s.restartIndicators).lmu = s.lmu ∧
    (s.restartIndicators).stu = s.stu ∧ (s.restartIndicators).prc = s.prc ∧ (s.restartIndicators).pjq = s.pjq ∧
    (s.restartIndicators).cut = s.cut ∧ (s.restartIndicators).hos = s.hos := by
  unfold State.restartIndicators
  try dsimp only
  refine ⟨?_, ?_, ?_, ?_, ?_, ?_, ?_, ?_, ?_, ?_, ?_, ?_, ?_, ?_, ?_⟩
  · exact (foldl_keeps _ State.pending (fun s b => by (try split) <;> simp) _ _).trans (by simp)
  · exact (foldl_keeps _ State.sent (fun s b => by (try split) <;> simp) _ _).trans (by simp)
  · exact (foldl_keeps _ State.ticks (fun s b => by (try split) <;> simp) _ _).trans (by simp)
  · exact (foldl_keeps _ State.pins (fun s b => by (try split) <;> simp) _ _).trans (by simp)
  · exact (foldl_keeps _ State.links (fun s b => by (try split) <;> simp) _ _).trans (by simp)
  · exact (foldl_keeps _ State.rcm (fun s b => by (try split) <;> simp) _ _).trans (by simp)
  · exact (foldl_keeps _ State.hlc (fun s b => by (try split) <;> simp) _ _).trans (by simp)
  · exact (foldl_keeps _ State.dju (fun s b => by (try split) <;> simp) _ _).trans (by simp)
  · exact (foldl_keeps _ State.tlu (fun s b => by (try split) <;> simp) _ _).trans (by simp)
  · exact (foldl_keeps _ State.lmu (fun s b => by (try split) <;> simp) _ _).trans (by simp)
  · exact (foldl_keeps _ State.stu (fun s b => by (try split) <;> simp) _ _).trans (by simp)
  · exact (foldl_keeps _ State.prc (fun s b => by (try split) <;> simp) _ _).trans (by simp)
  · exact (foldl_keeps _ State.pjq (fun s b => by (try split) <;> simp) _ _).trans (by simp)
  · exact (foldl_keeps _ State.cut (fun s b => by (try split) <;> simp) _ _).trans (by simp)
  · exact (foldl_keeps _ State.hos (fun s b => by (try split) <;> simp) _ _).trans (by simp)

@[simp] theorem restartSend_frame (s : State) :
    (s.restartSend).pending = s.pending ∧ (s.restartSend).sent = s.sent ∧ (s.restartSend).ticks = s.ticks ∧
    (s.restartSend).pins = s.pins ∧ (s.restartSend).links = s.links ∧ (s.restartSend).rcm = s.rcm ∧
    (s.restartSend).dju = s.dju ∧ (s.restartSend).tlu = s.tlu ∧ (s.restartSend).lmu = s.lmu ∧
    (s.restartSend).stu = s.stu ∧ (s.restartSend).slc = s.slc ∧ (s.restartSend).prc = s.prc ∧
    (s.restartSend).pjq = s.pjq ∧ (s.restartSend).cut = s.cut := by
  generalize h : s.restartSend = u
  unfold State.restartSend at h
  try dsimp only at h
  (repeat' split at h) <;> subst h <;> simp

@[simp] theorem restartCut_frame (s : State) :
    (s.restartCut).pending = s.pending ∧ (s.restartCut).ticks = s.ticks ∧ (s.restartCut).pins = s.pins ∧
    (s.restartCut).links = s.links ∧ (s.restartCut).rcm = s.rcm ∧ (s.restartCut).lmu = s.lmu ∧
    (s.restartCut).prc = s.prc ∧ (s.restartCut).pjq = s.pjq := by
  simp [State.restartCut]

@[simp] theorem beginRounds_frame (s : State) :
    (s.beginRounds).pending = s.pending ∧ (s.beginRounds).ticks = s.ticks ∧ (s.beginRounds).pins = s.pins ∧
    (s.beginRounds).links = s.links ∧ (s.beginRounds).rcm = s.rcm ∧ (s.beginRounds).hlc = s.hlc ∧
    (s.beginRounds).dju = s.dju ∧ (s.beginRounds).tlu = s.tlu ∧ (s.beginRounds).lmu = s.lmu ∧
    (s.beginRounds).stu = s.stu ∧ (s.beginRounds).prc = s.prc ∧ (s.beginRounds).pjq = s.pjq ∧
    (s.beginRounds).cut = s.cut ∧ (s.beginRounds).hos = s.hos := by
  simp [State.beginRounds]

@[simp] theorem openPorts_frame (s : State) :
    (s.openPorts).pending = s.pending ∧ (s.openPorts).ticks = s.ticks ∧ (s.openPorts).pins = s.pins ∧
    (s.openPorts).rcm = s.rcm ∧ (s.openPorts).dju = s.dju ∧ (s.openPorts).tlu = s.tlu ∧ (s.openPorts).lmu = s.lmu ∧
    (s.openPorts).stu = s.stu ∧ (s.openPorts).prc = s.prc ∧ (s.openPorts).pjq = s.pjq ∧
    (s.openPorts).cut = s.cut := by
  generalize h : s.openPorts = u
  unfold State.openPorts at h
  try dsimp only at h
  (repeat' split at h) <;> subst h <;> simp

@[simp] theorem restart_frame (s : State) (c : StartCause) (x : Straps) :
    (s.restart c x).pending = s.pending ∧ (s.restart c x).ticks = s.ticks ∧ (s.restart c x).pins = s.pins ∧
    (s.restart c x).lmu = s.lmu := by
  simp [State.restart]

@[simp] theorem cancelQueued_frame (s : State) (st : Station) :
    (s.cancelQueued st).pending = s.pending ∧ (s.cancelQueued st).ticks = s.ticks ∧
    (s.cancelQueued st).pins = s.pins ∧ (s.cancelQueued st).links = s.links ∧ (s.cancelQueued st).rcm = s.rcm ∧
    (s.cancelQueued st).tlu = s.tlu ∧ (s.cancelQueued st).lmu = s.lmu ∧ (s.cancelQueued st).stu = s.stu ∧
    (s.cancelQueued st).cut = s.cut ∧ (s.cancelQueued st).hos = s.hos := by
  unfold State.cancelQueued
  try dsimp only
  refine ⟨?_, ?_, ?_, ?_, ?_, ?_, ?_, ?_, ?_, ?_⟩
  · exact (foldl_keeps _ State.pending (fun s b => by (try split) <;> simp) _ _).trans (by simp)
  · exact (foldl_keeps _ State.ticks (fun s b => by (try split) <;> simp) _ _).trans (by simp)
  · exact (foldl_keeps _ State.pins (fun s b => by (try split) <;> simp) _ _).trans (by simp)
  · exact (foldl_keeps _ State.links (fun s b => by (try split) <;> simp) _ _).trans (by simp)
  · exact (foldl_keeps _ State.rcm (fun s b => by (try split) <;> simp) _ _).trans (by simp)
  · exact (foldl_keeps _ State.tlu (fun s b => by (try split) <;> simp) _ _).trans (by simp)
  · exact (foldl_keeps _ State.lmu (fun s b => by (try split) <;> simp) _ _).trans (by simp)
  · exact (foldl_keeps _ State.stu (fun s b => by (try split) <;> simp) _ _).trans (by simp)
  · exact (foldl_keeps _ State.cut (fun s b => by (try split) <;> simp) _ _).trans (by simp)
  · exact (foldl_keeps _ State.hos (fun s b => by (try split) <;> simp) _ _).trans (by simp)

@[simp] theorem forceSignOff_frame (s : State) (st : Station) :
    (s.forceSignOff st).pending = s.pending ∧ (s.forceSignOff st).ticks = s.ticks ∧
    (s.forceSignOff st).pins = s.pins ∧ (s.forceSignOff st).links = s.links ∧ (s.forceSignOff st).rcm = s.rcm := by
  generalize h : s.forceSignOff st = u
  unfold State.forceSignOff at h
  try dsimp only at h
  (repeat' split at h) <;> subst h <;> simp

@[simp] theorem printerRunOut_frame (s : State) (p : Printer) :
    (s.printerRunOut p).pending = s.pending ∧ (s.printerRunOut p).ticks = s.ticks ∧
    (s.printerRunOut p).pins = s.pins ∧ (s.printerRunOut p).links = s.links ∧ (s.printerRunOut p).rcm = s.rcm ∧
    (s.printerRunOut p).tlu = s.tlu ∧ (s.printerRunOut p).lmu = s.lmu ∧ (s.printerRunOut p).stu = s.stu ∧
    (s.printerRunOut p).cut = s.cut ∧ (s.printerRunOut p).hos = s.hos := by
  generalize h : s.printerRunOut p = u
  unfold State.printerRunOut at h
  try dsimp only at h
  (repeat' split at h) <;> subst h <;> simp

@[simp] theorem tickTlu_frame (s : State) :
    (s.tickTlu).pending = s.pending ∧ (s.tickTlu).ticks = s.ticks ∧ (s.tickTlu).pins = s.pins ∧
    (s.tickTlu).links = s.links ∧ (s.tickTlu).rcm = s.rcm ∧ (s.tickTlu).prc = s.prc ∧ (s.tickTlu).pjq = s.pjq := by
  unfold State.tickTlu
  try dsimp only
  refine ⟨?_, ?_, ?_, ?_, ?_, ?_, ?_⟩
  · exact (foldl_keeps _ State.pending (fun s b => by (try split) <;> simp) _ _).trans (by simp)
  · exact (foldl_keeps _ State.ticks (fun s b => by (try split) <;> simp) _ _).trans (by simp)
  · exact (foldl_keeps _ State.pins (fun s b => by (try split) <;> simp) _ _).trans (by simp)
  · exact (foldl_keeps _ State.links (fun s b => by (try split) <;> simp) _ _).trans (by simp)
  · exact (foldl_keeps _ State.rcm (fun s b => by (try split) <;> simp) _ _).trans (by simp)
  · exact (foldl_keeps _ State.prc (fun s b => by (try split) <;> simp) _ _).trans (by simp)
  · exact (foldl_keeps _ State.pjq (fun s b => by (try split) <;> simp) _ _).trans (by simp)

@[simp] theorem tickStu_frame (s : State) :
    (s.tickStu).pending = s.pending ∧ (s.tickStu).ticks = s.ticks ∧ (s.tickStu).pins = s.pins ∧
    (s.tickStu).links = s.links ∧ (s.tickStu).rcm = s.rcm := by
  unfold State.tickStu
  try dsimp only
  refine ⟨?_, ?_, ?_, ?_, ?_⟩
  · exact (foldl_keeps _ State.pending (fun s b => by (try dsimp only); split <;> simp) _ _).trans (by simp)
  · exact (foldl_keeps _ State.ticks (fun s b => by (try dsimp only); split <;> simp) _ _).trans (by simp)
  · exact (foldl_keeps _ State.pins (fun s b => by (try dsimp only); split <;> simp) _ _).trans (by simp)
  · exact (foldl_keeps _ State.links (fun s b => by (try dsimp only); split <;> simp) _ _).trans (by simp)
  · exact (foldl_keeps _ State.rcm (fun s b => by (try dsimp only); split <;> simp) _ _).trans (by simp)

@[simp] theorem tickPjq_frame (s : State) :
    (s.tickPjq).pending = s.pending ∧ (s.tickPjq).ticks = s.ticks ∧ (s.tickPjq).pins = s.pins ∧
    (s.tickPjq).links = s.links ∧ (s.tickPjq).rcm = s.rcm ∧ (s.tickPjq).tlu = s.tlu ∧ (s.tickPjq).lmu = s.lmu ∧
    (s.tickPjq).stu = s.stu ∧ (s.tickPjq).cut = s.cut ∧ (s.tickPjq).hos = s.hos := by
  have keeps : ∀ (l : List Job) (s : State), (l.foldl (fun (s : State) j => s.waitRunOut j) s).pending = s.pending ∧ (l.foldl (fun (s : State) j => s.waitRunOut j) s).ticks = s.ticks ∧ (l.foldl (fun (s : State) j => s.waitRunOut j) s).pins = s.pins ∧ (l.foldl (fun (s : State) j => s.waitRunOut j) s).links = s.links ∧ (l.foldl (fun (s : State) j => s.waitRunOut j) s).rcm = s.rcm ∧ (l.foldl (fun (s : State) j => s.waitRunOut j) s).tlu = s.tlu ∧ (l.foldl (fun (s : State) j => s.waitRunOut j) s).lmu = s.lmu ∧ (l.foldl (fun (s : State) j => s.waitRunOut j) s).stu = s.stu ∧ (l.foldl (fun (s : State) j => s.waitRunOut j) s).cut = s.cut ∧ (l.foldl (fun (s : State) j => s.waitRunOut j) s).hos = s.hos := by
    intro l s
    refine ⟨?_, ?_, ?_, ?_, ?_, ?_, ?_, ?_, ?_, ?_⟩
    · exact foldl_keeps _ State.pending (fun s b => by simp) _ _
    · exact foldl_keeps _ State.ticks (fun s b => by simp) _ _
    · exact foldl_keeps _ State.pins (fun s b => by simp) _ _
    · exact foldl_keeps _ State.links (fun s b => by simp) _ _
    · exact foldl_keeps _ State.rcm (fun s b => by simp) _ _
    · exact foldl_keeps _ State.tlu (fun s b => by simp) _ _
    · exact foldl_keeps _ State.lmu (fun s b => by simp) _ _
    · exact foldl_keeps _ State.stu (fun s b => by simp) _ _
    · exact foldl_keeps _ State.cut (fun s b => by simp) _ _
    · exact foldl_keeps _ State.hos (fun s b => by simp) _ _
  unfold State.tickPjq
  dsimp only
  split <;> simp [keeps]

@[simp] theorem tickPrc_frame (s : State) :
    (s.tickPrc).pending = s.pending ∧ (s.tickPrc).ticks = s.ticks ∧ (s.tickPrc).pins = s.pins ∧
    (s.tickPrc).links = s.links ∧ (s.tickPrc).rcm = s.rcm ∧ (s.tickPrc).tlu = s.tlu ∧ (s.tickPrc).lmu = s.lmu ∧
    (s.tickPrc).stu = s.stu ∧ (s.tickPrc).cut = s.cut ∧ (s.tickPrc).hos = s.hos := by
  unfold State.tickPrc
  try dsimp only
  refine ⟨?_, ?_, ?_, ?_, ?_, ?_, ?_, ?_, ?_, ?_⟩
  · exact (foldl_keeps _ State.pending (fun s b => by (try dsimp only); split <;> simp) _ _).trans (by simp)
  · exact (foldl_keeps _ State.ticks (fun s b => by (try dsimp only); split <;> simp) _ _).trans (by simp)
  · exact (foldl_keeps _ State.pins (fun s b => by (try dsimp only); split <;> simp) _ _).trans (by simp)
  · exact (foldl_keeps _ State.links (fun s b => by (try dsimp only); split <;> simp) _ _).trans (by simp)
  · exact (foldl_keeps _ State.rcm (fun s b => by (try dsimp only); split <;> simp) _ _).trans (by simp)
  · exact (foldl_keeps _ State.tlu (fun s b => by (try dsimp only); split <;> simp) _ _).trans (by simp)
  · exact (foldl_keeps _ State.lmu (fun s b => by (try dsimp only); split <;> simp) _ _).trans (by simp)
  · exact (foldl_keeps _ State.stu (fun s b => by (try dsimp only); split <;> simp) _ _).trans (by simp)
  · exact (foldl_keeps _ State.cut (fun s b => by (try dsimp only); split <;> simp) _ _).trans (by simp)
  · exact (foldl_keeps _ State.hos (fun s b => by (try dsimp only); split <;> simp) _ _).trans (by simp)

@[simp] theorem tickHos_frame (s : State) :
    (s.tickHos).pending = s.pending ∧ (s.tickHos).ticks = s.ticks ∧ (s.tickHos).pins = s.pins ∧
    (s.tickHos).links = s.links ∧ (s.tickHos).rcm = s.rcm ∧ (s.tickHos).dju = s.dju ∧ (s.tickHos).tlu = s.tlu ∧
    (s.tickHos).lmu = s.lmu ∧ (s.tickHos).stu = s.stu ∧ (s.tickHos).slc = s.slc ∧ (s.tickHos).prc = s.prc ∧
    (s.tickHos).pjq = s.pjq ∧ (s.tickHos).cut = s.cut := by
  generalize h : s.tickHos = u
  unfold State.tickHos at h
  try dsimp only at h
  (repeat' split at h) <;> subst h <;> simp

@[simp] theorem runOuts_frame (s : State) :
    (s.runOuts).pending = s.pending ∧ (s.runOuts).ticks = s.ticks ∧ (s.runOuts).pins = s.pins ∧
    (s.runOuts).links = s.links ∧ (s.runOuts).rcm = s.rcm := by
  unfold State.runOuts
  try dsimp only
  refine ⟨?_, ?_, ?_, ?_, ?_⟩
  · exact (foldl_keeps _ State.pending (fun s b => by cases b <;> simp [TickBlock.run]) _ _).trans (by simp)
  · exact (foldl_keeps _ State.ticks (fun s b => by cases b <;> simp [TickBlock.run]) _ _).trans (by simp)
  · exact (foldl_keeps _ State.pins (fun s b => by cases b <;> simp [TickBlock.run]) _ _).trans (by simp)
  · exact (foldl_keeps _ State.links (fun s b => by cases b <;> simp [TickBlock.run]) _ _).trans (by simp)
  · exact (foldl_keeps _ State.rcm (fun s b => by cases b <;> simp [TickBlock.run]) _ _).trans (by simp)

@[simp] theorem tick_frame (s : State) :
    (s.tick).pending = s.pending ∧ (s.tick).pins = s.pins ∧ (s.tick).links = s.links ∧ (s.tick).rcm = s.rcm := by
  simp [State.tick]

end Sys2Proof.Machine.State
end

