-- ==== Sys2Proof/Laws/Link.lean ====
section
/-! SUPPORT. Raising notices changes HLC's queue and overflow flag and nothing else of HLC, in every operation that raises them. -/

namespace Sys2Proof.Machine.State

open Sys2Proof

@[simp] theorem raise_hlc (s : State) (n : Notice) :
    (s.raise n).hlc.clock = s.hlc.clock ∧ (s.raise n).hlc.rate = s.hlc.rate ∧
    (s.raise n).hlc.receive = s.hlc.receive ∧ (s.raise n).hlc.buffer = s.hlc.buffer ∧
    (s.raise n).hlc.startKind = s.hlc.startKind ∧ (s.raise n).hlc.startCause = s.hlc.startCause ∧
    (s.raise n).hlc.restarting = s.hlc.restarting := by
  generalize h : s.raise n = u
  unfold State.raise at h
  try dsimp only at h
  (repeat' split at h) <;> subst h <;> simp

@[simp] theorem noteLow_hlc (s : State) (n : Nat) :
    (s.noteLow n).hlc.clock = s.hlc.clock ∧ (s.noteLow n).hlc.rate = s.hlc.rate ∧
    (s.noteLow n).hlc.receive = s.hlc.receive ∧ (s.noteLow n).hlc.buffer = s.hlc.buffer ∧
    (s.noteLow n).hlc.startKind = s.hlc.startKind ∧ (s.noteLow n).hlc.startCause = s.hlc.startCause ∧
    (s.noteLow n).hlc.restarting = s.hlc.restarting := by
  generalize h : s.noteLow n = u
  unfold State.noteLow at h
  try dsimp only at h
  (repeat' split at h) <;> subst h <;> simp

@[simp] theorem append_hlc (s : State) (d : Draft) :
    (s.append d).hlc.clock = s.hlc.clock ∧ (s.append d).hlc.rate = s.hlc.rate ∧
    (s.append d).hlc.receive = s.hlc.receive ∧ (s.append d).hlc.buffer = s.hlc.buffer ∧
    (s.append d).hlc.startKind = s.hlc.startKind ∧ (s.append d).hlc.startCause = s.hlc.startCause ∧
    (s.append d).hlc.restarting = s.hlc.restarting := by
  simp [State.append]

@[simp] theorem trip_hlc (s : State) (t : Till) (d : Direction) (v q : Nat) :
    (s.trip t d v q).hlc.clock = s.hlc.clock ∧ (s.trip t d v q).hlc.rate = s.hlc.rate ∧
    (s.trip t d v q).hlc.receive = s.hlc.receive ∧ (s.trip t d v q).hlc.buffer = s.hlc.buffer ∧
    (s.trip t d v q).hlc.startKind = s.hlc.startKind ∧ (s.trip t d v q).hlc.startCause = s.hlc.startCause ∧
    (s.trip t d v q).hlc.restarting = s.hlc.restarting := by
  simp [State.trip]

@[simp] theorem evaluate_hlc (s : State) (t : Till) (q : Nat) :
    (s.evaluate t q).hlc.clock = s.hlc.clock ∧ (s.evaluate t q).hlc.rate = s.hlc.rate ∧
    (s.evaluate t q).hlc.receive = s.hlc.receive ∧ (s.evaluate t q).hlc.buffer = s.hlc.buffer ∧
    (s.evaluate t q).hlc.startKind = s.hlc.startKind ∧ (s.evaluate t q).hlc.startCause = s.hlc.startCause ∧
    (s.evaluate t q).hlc.restarting = s.hlc.restarting := by
  generalize h : s.evaluate t q = u
  unfold State.evaluate at h
  try dsimp only at h
  (repeat' split at h) <;> subst h <;> simp

@[simp] theorem reportAbsent_hlc (s : State) (st : Station) :
    (s.reportAbsent st).hlc.clock = s.hlc.clock ∧ (s.reportAbsent st).hlc.rate = s.hlc.rate ∧
    (s.reportAbsent st).hlc.receive = s.hlc.receive ∧ (s.reportAbsent st).hlc.buffer = s.hlc.buffer ∧
    (s.reportAbsent st).hlc.startKind = s.hlc.startKind ∧ (s.reportAbsent st).hlc.startCause = s.hlc.startCause ∧
    (s.reportAbsent st).hlc.restarting = s.hlc.restarting := by
  generalize h : s.reportAbsent st = u
  unfold State.reportAbsent at h
  try dsimp only at h
  (repeat' split at h) <;> subst h <;> simp

@[simp] theorem reportAnswered_hlc (s : State) (st : Station) :
    (s.reportAnswered st).hlc.clock = s.hlc.clock ∧ (s.reportAnswered st).hlc.rate = s.hlc.rate ∧
    (s.reportAnswered st).hlc.receive = s.hlc.receive ∧ (s.reportAnswered st).hlc.buffer = s.hlc.buffer ∧
    (s.reportAnswered st).hlc.startKind = s.hlc.startKind ∧ (s.reportAnswered st).hlc.startCause = s.hlc.startCause ∧
    (s.reportAnswered st).hlc.restarting = s.hlc.restarting := by
  generalize h : s.reportAnswered st = u
  unfold State.reportAnswered at h
  try dsimp only at h
  (repeat' split at h) <;> subst h <;> simp

@[simp] theorem screenAbsent_hlc (s : State) (st : Station) :
    (s.screenAbsent st).hlc.clock = s.hlc.clock ∧ (s.screenAbsent st).hlc.rate = s.hlc.rate ∧
    (s.screenAbsent st).hlc.receive = s.hlc.receive ∧ (s.screenAbsent st).hlc.buffer = s.hlc.buffer ∧
    (s.screenAbsent st).hlc.startKind = s.hlc.startKind ∧ (s.screenAbsent st).hlc.startCause = s.hlc.startCause ∧
    (s.screenAbsent st).hlc.restarting = s.hlc.restarting := by
  simp [State.screenAbsent]

@[simp] theorem takeEntry_hlc (s : State) (st : Station) (k : InputKind) (b : Bool) (x : Text) :
    (s.takeEntry st k b x).hlc.clock = s.hlc.clock ∧ (s.takeEntry st k b x).hlc.rate = s.hlc.rate ∧
    (s.takeEntry st k b x).hlc.receive = s.hlc.receive ∧ (s.takeEntry st k b x).hlc.buffer = s.hlc.buffer ∧
    (s.takeEntry st k b x).hlc.startKind = s.hlc.startKind ∧
    (s.takeEntry st k b x).hlc.startCause = s.hlc.startCause ∧
    (s.takeEntry st k b x).hlc.restarting = s.hlc.restarting := by
  generalize h : s.takeEntry st k b x = u
  unfold State.takeEntry at h
  try dsimp only at h
  (repeat' split at h) <;> subst h <;> simp

@[simp] theorem handleContent_hlc (s : State) (st : Station) (c : ReplyContent) :
    (s.handleContent st c).hlc.clock = s.hlc.clock ∧ (s.handleContent st c).hlc.rate = s.hlc.rate ∧
    (s.handleContent st c).hlc.receive = s.hlc.receive ∧ (s.handleContent st c).hlc.buffer = s.hlc.buffer ∧
    (s.handleContent st c).hlc.startKind = s.hlc.startKind ∧
    (s.handleContent st c).hlc.startCause = s.hlc.startCause ∧
    (s.handleContent st c).hlc.restarting = s.hlc.restarting := by
  generalize h : s.handleContent st c = u
  unfold State.handleContent at h
  try dsimp only at h
  (repeat' split at h) <;> subst h <;> simp

@[simp] theorem applyReply_hlc (s : State) (sl : Slot) (r : ScreenReply) :
    (s.applyReply sl r).hlc.clock = s.hlc.clock ∧ (s.applyReply sl r).hlc.rate = s.hlc.rate ∧
    (s.applyReply sl r).hlc.receive = s.hlc.receive ∧ (s.applyReply sl r).hlc.buffer = s.hlc.buffer ∧
    (s.applyReply sl r).hlc.startKind = s.hlc.startKind ∧ (s.applyReply sl r).hlc.startCause = s.hlc.startCause ∧
    (s.applyReply sl r).hlc.restarting = s.hlc.restarting := by
  generalize h : s.applyReply sl r = u
  unfold State.applyReply at h
  try dsimp only at h
  (repeat' split at h) <;> subst h <;> simp

@[simp] theorem answerAbsent_hlc (s : State) (sl : Slot) (r : ScreenReply) :
    (s.answerAbsent sl r).hlc.clock = s.hlc.clock ∧ (s.answerAbsent sl r).hlc.rate = s.hlc.rate ∧
    (s.answerAbsent sl r).hlc.receive = s.hlc.receive ∧ (s.answerAbsent sl r).hlc.buffer = s.hlc.buffer ∧
    (s.answerAbsent sl r).hlc.startKind = s.hlc.startKind ∧ (s.answerAbsent sl r).hlc.startCause = s.hlc.startCause ∧
    (s.answerAbsent sl r).hlc.restarting = s.hlc.restarting := by
  simp [State.answerAbsent]

@[simp] theorem takeReply_hlc (s : State) (r : ScreenReply) :
    (s.takeReply r).hlc.clock = s.hlc.clock ∧ (s.takeReply r).hlc.rate = s.hlc.rate ∧
    (s.takeReply r).hlc.receive = s.hlc.receive ∧ (s.takeReply r).hlc.buffer = s.hlc.buffer ∧
    (s.takeReply r).hlc.startKind = s.hlc.startKind ∧ (s.takeReply r).hlc.startCause = s.hlc.startCause ∧
    (s.takeReply r).hlc.restarting = s.hlc.restarting := by
  generalize h : s.takeReply r = u
  unfold State.takeReply at h
  try dsimp only at h
  (repeat' split at h) <;> subst h <;> simp

@[simp] theorem applyMiss_hlc (s : State) (sl : Slot) :
    (s.applyMiss sl).hlc.clock = s.hlc.clock ∧ (s.applyMiss sl).hlc.rate = s.hlc.rate ∧
    (s.applyMiss sl).hlc.receive = s.hlc.receive ∧ (s.applyMiss sl).hlc.buffer = s.hlc.buffer ∧
    (s.applyMiss sl).hlc.startKind = s.hlc.startKind ∧ (s.applyMiss sl).hlc.startCause = s.hlc.startCause ∧
    (s.applyMiss sl).hlc.restarting = s.hlc.restarting := by
  generalize h : s.applyMiss sl = u
  unfold State.applyMiss at h
  try dsimp only at h
  (repeat' split at h) <;> subst h <;> simp

@[simp] theorem missReply_hlc (s : State) :
    (s.missReply).hlc.clock = s.hlc.clock ∧ (s.missReply).hlc.rate = s.hlc.rate ∧
    (s.missReply).hlc.receive = s.hlc.receive ∧ (s.missReply).hlc.buffer = s.hlc.buffer ∧
    (s.missReply).hlc.startKind = s.hlc.startKind ∧ (s.missReply).hlc.startCause = s.hlc.startCause ∧
    (s.missReply).hlc.restarting = s.hlc.restarting := by
  generalize h : s.missReply = u
  unfold State.missReply at h
  try dsimp only at h
  (repeat' split at h) <;> subst h <;> simp

@[simp] theorem closeJob_hlc (s : State) (j : Job) (x : JobState) (r : Reason) :
    (s.closeJob j x r).hlc.clock = s.hlc.clock ∧ (s.closeJob j x r).hlc.rate = s.hlc.rate ∧
    (s.closeJob j x r).hlc.receive = s.hlc.receive ∧ (s.closeJob j x r).hlc.buffer = s.hlc.buffer ∧
    (s.closeJob j x r).hlc.startKind = s.hlc.startKind ∧ (s.closeJob j x r).hlc.startCause = s.hlc.startCause ∧
    (s.closeJob j x r).hlc.restarting = s.hlc.restarting := by
  simp [State.closeJob]

@[simp] theorem endJob_hlc (s : State) (j : Job) (x : JobState) (r : Reason) :
    (s.endJob j x r).hlc.clock = s.hlc.clock ∧ (s.endJob j x r).hlc.rate = s.hlc.rate ∧
    (s.endJob j x r).hlc.receive = s.hlc.receive ∧ (s.endJob j x r).hlc.buffer = s.hlc.buffer ∧
    (s.endJob j x r).hlc.startKind = s.hlc.startKind ∧ (s.endJob j x r).hlc.startCause = s.hlc.startCause ∧
    (s.endJob j x r).hlc.restarting = s.hlc.restarting := by
  generalize h : s.endJob j x r = u
  unfold State.endJob at h
  try dsimp only at h
  (repeat' split at h) <;> subst h <;> simp

@[simp] theorem leave_hlc (s : State) (p : Printer) (j : Job) (x : JobState) (r : Reason) :
    (s.leave p j x r).hlc.clock = s.hlc.clock ∧ (s.leave p j x r).hlc.rate = s.hlc.rate ∧
    (s.leave p j x r).hlc.receive = s.hlc.receive ∧ (s.leave p j x r).hlc.buffer = s.hlc.buffer ∧
    (s.leave p j x r).hlc.startKind = s.hlc.startKind ∧ (s.leave p j x r).hlc.startCause = s.hlc.startCause ∧
    (s.leave p j x r).hlc.restarting = s.hlc.restarting := by
  simp [State.leave]

@[simp] theorem finish_hlc (s : State) (p : Printer) (j : Job) :
    (s.finish p j).hlc.clock = s.hlc.clock ∧ (s.finish p j).hlc.rate = s.hlc.rate ∧
    (s.finish p j).hlc.receive = s.hlc.receive ∧ (s.finish p j).hlc.buffer = s.hlc.buffer ∧
    (s.finish p j).hlc.startKind = s.hlc.startKind ∧ (s.finish p j).hlc.startCause = s.hlc.startCause ∧
    (s.finish p j).hlc.restarting = s.hlc.restarting := by
  simp [State.finish]

@[simp] theorem seekLine_hlc (s : State) (p : Printer) (j : Job) :
    (s.seekLine p j).hlc.clock = s.hlc.clock ∧ (s.seekLine p j).hlc.rate = s.hlc.rate ∧
    (s.seekLine p j).hlc.receive = s.hlc.receive ∧ (s.seekLine p j).hlc.buffer = s.hlc.buffer ∧
    (s.seekLine p j).hlc.startKind = s.hlc.startKind ∧ (s.seekLine p j).hlc.startCause = s.hlc.startCause ∧
    (s.seekLine p j).hlc.restarting = s.hlc.restarting := by
  generalize h : s.seekLine p j = u
  unfold State.seekLine at h
  try dsimp only at h
  (repeat' split at h) <;> subst h <;> simp

@[simp] theorem pageEnd_hlc (s : State) (p : Printer) (j : Job) :
    (s.pageEnd p j).hlc.clock = s.hlc.clock ∧ (s.pageEnd p j).hlc.rate = s.hlc.rate ∧
    (s.pageEnd p j).hlc.receive = s.hlc.receive ∧ (s.pageEnd p j).hlc.buffer = s.hlc.buffer ∧
    (s.pageEnd p j).hlc.startKind = s.hlc.startKind ∧ (s.pageEnd p j).hlc.startCause = s.hlc.startCause ∧
    (s.pageEnd p j).hlc.restarting = s.hlc.restarting := by
  generalize h : s.pageEnd p j = u
  unfold State.pageEnd at h
  try dsimp only at h
  (repeat' split at h) <;> subst h <;> simp

@[simp] theorem afterLine_hlc (s : State) (p : Printer) (j : Job) :
    (s.afterLine p j).hlc.clock = s.hlc.clock ∧ (s.afterLine p j).hlc.rate = s.hlc.rate ∧
    (s.afterLine p j).hlc.receive = s.hlc.receive ∧ (s.afterLine p j).hlc.buffer = s.hlc.buffer ∧
    (s.afterLine p j).hlc.startKind = s.hlc.startKind ∧ (s.afterLine p j).hlc.startCause = s.hlc.startCause ∧
    (s.afterLine p j).hlc.restarting = s.hlc.restarting := by
  generalize h : s.afterLine p j = u
  unfold State.afterLine at h
  try dsimp only at h
  (repeat' split at h) <;> subst h <;> simp

@[simp] theorem lineDone_hlc (s : State) (p : Printer) (j : Job) :
    (s.lineDone p j).hlc.clock = s.hlc.clock ∧ (s.lineDone p j).hlc.rate = s.hlc.rate ∧
    (s.lineDone p j).hlc.receive = s.hlc.receive ∧ (s.lineDone p j).hlc.buffer = s.hlc.buffer ∧
    (s.lineDone p j).hlc.startKind = s.hlc.startKind ∧ (s.lineDone p j).hlc.startCause = s.hlc.startCause ∧
    (s.lineDone p j).hlc.restarting = s.hlc.restarting := by
  generalize h : s.lineDone p j = u
  unfold State.lineDone at h
  try dsimp only at h
  (repeat' split at h) <;> subst h <;> simp

@[simp] theorem pageFull_hlc (s : State) (p : Printer) (j : Job) :
    (s.pageFull p j).hlc.clock = s.hlc.clock ∧ (s.pageFull p j).hlc.rate = s.hlc.rate ∧
    (s.pageFull p j).hlc.receive = s.hlc.receive ∧ (s.pageFull p j).hlc.buffer = s.hlc.buffer ∧
    (s.pageFull p j).hlc.startKind = s.hlc.startKind ∧ (s.pageFull p j).hlc.startCause = s.hlc.startCause ∧
    (s.pageFull p j).hlc.restarting = s.hlc.restarting := by
  generalize h : s.pageFull p j = u
  unfold State.pageFull at h
  try dsimp only at h
  (repeat' split at h) <;> subst h <;> simp

@[simp] theorem wrongBook_hlc (s : State) (p : Printer) (j : Job) :
    (s.wrongBook p j).hlc.clock = s.hlc.clock ∧ (s.wrongBook p j).hlc.rate = s.hlc.rate ∧
    (s.wrongBook p j).hlc.receive = s.hlc.receive ∧ (s.wrongBook p j).hlc.buffer = s.hlc.buffer ∧
    (s.wrongBook p j).hlc.startKind = s.hlc.startKind ∧ (s.wrongBook p j).hlc.startCause = s.hlc.startCause ∧
    (s.wrongBook p j).hlc.restarting = s.hlc.restarting := by
  generalize h : s.wrongBook p j = u
  unfold State.wrongBook at h
  try dsimp only at h
  (repeat' split at h) <;> subst h <;> simp

@[simp] theorem rightBook_hlc (s : State) (p : Printer) (j : Job) (x y : Nat) :
    (s.rightBook p j x y).hlc.clock = s.hlc.clock ∧ (s.rightBook p j x y).hlc.rate = s.hlc.rate ∧
    (s.rightBook p j x y).hlc.receive = s.hlc.receive ∧ (s.rightBook p j x y).hlc.buffer = s.hlc.buffer ∧
    (s.rightBook p j x y).hlc.startKind = s.hlc.startKind ∧ (s.rightBook p j x y).hlc.startCause = s.hlc.startCause ∧
    (s.rightBook p j x y).hlc.restarting = s.hlc.restarting := by
  simp [State.rightBook]

@[simp] theorem bookInserted_hlc (s : State) (p : Printer) (j : Job) (b : Text) (x y : Nat) :
    (s.bookInserted p j b x y).hlc.clock = s.hlc.clock ∧ (s.bookInserted p j b x y).hlc.rate = s.hlc.rate ∧
    (s.bookInserted p j b x y).hlc.receive = s.hlc.receive ∧ (s.bookInserted p j b x y).hlc.buffer = s.hlc.buffer ∧
    (s.bookInserted p j b x y).hlc.startKind = s.hlc.startKind ∧
    (s.bookInserted p j b x y).hlc.startCause = s.hlc.startCause ∧
    (s.bookInserted p j b x y).hlc.restarting = s.hlc.restarting := by
  generalize h : s.bookInserted p j b x y = u
  unfold State.bookInserted at h
  try dsimp only at h
  (repeat' split at h) <;> subst h <;> simp

@[simp] theorem waitRunOut_hlc (s : State) (j : Job) :
    (s.waitRunOut j).hlc.clock = s.hlc.clock ∧ (s.waitRunOut j).hlc.rate = s.hlc.rate ∧
    (s.waitRunOut j).hlc.receive = s.hlc.receive ∧ (s.waitRunOut j).hlc.buffer = s.hlc.buffer ∧
    (s.waitRunOut j).hlc.startKind = s.hlc.startKind ∧ (s.waitRunOut j).hlc.startCause = s.hlc.startCause ∧
    (s.waitRunOut j).hlc.restarting = s.hlc.restarting := by
  generalize h : s.waitRunOut j = u
  unfold State.waitRunOut at h
  try dsimp only at h
  (repeat' split at h) <;> subst h <;> simp

@[simp] theorem comeOnline_hlc (s : State) (p : Printer) :
    (s.comeOnline p).hlc.clock = s.hlc.clock ∧ (s.comeOnline p).hlc.rate = s.hlc.rate ∧
    (s.comeOnline p).hlc.receive = s.hlc.receive ∧ (s.comeOnline p).hlc.buffer = s.hlc.buffer ∧
    (s.comeOnline p).hlc.startKind = s.hlc.startKind ∧ (s.comeOnline p).hlc.startCause = s.hlc.startCause ∧
    (s.comeOnline p).hlc.restarting = s.hlc.restarting := by
  simp [State.comeOnline]

@[simp] theorem failBound_hlc (s : State) (p : Printer) (r : Reason) :
    (s.failBound p r).hlc.clock = s.hlc.clock ∧ (s.failBound p r).hlc.rate = s.hlc.rate ∧
    (s.failBound p r).hlc.receive = s.hlc.receive ∧ (s.failBound p r).hlc.buffer = s.hlc.buffer ∧
    (s.failBound p r).hlc.startKind = s.hlc.startKind ∧ (s.failBound p r).hlc.startCause = s.hlc.startCause ∧
    (s.failBound p r).hlc.restarting = s.hlc.restarting := by
  generalize h : s.failBound p r = u
  unfold State.failBound at h
  try dsimp only at h
  (repeat' split at h) <;> subst h <;> simp

@[simp] theorem readyAtWork_hlc (s : State) (p : Printer) :
    (s.readyAtWork p).hlc.clock = s.hlc.clock ∧ (s.readyAtWork p).hlc.rate = s.hlc.rate ∧
    (s.readyAtWork p).hlc.receive = s.hlc.receive ∧ (s.readyAtWork p).hlc.buffer = s.hlc.buffer ∧
    (s.readyAtWork p).hlc.startKind = s.hlc.startKind ∧ (s.readyAtWork p).hlc.startCause = s.hlc.startCause ∧
    (s.readyAtWork p).hlc.restarting = s.hlc.restarting := by
  generalize h : s.readyAtWork p = u
  unfold State.readyAtWork at h
  try dsimp only at h
  (repeat' split at h) <;> subst h <;> simp

@[simp] theorem takeReady_hlc (s : State) (p : Printer) :
    (s.takeReady p).hlc.clock = s.hlc.clock ∧ (s.takeReady p).hlc.rate = s.hlc.rate ∧
    (s.takeReady p).hlc.receive = s.hlc.receive ∧ (s.takeReady p).hlc.buffer = s.hlc.buffer ∧
    (s.takeReady p).hlc.startKind = s.hlc.startKind ∧ (s.takeReady p).hlc.startCause = s.hlc.startCause ∧
    (s.takeReady p).hlc.restarting = s.hlc.restarting := by
  generalize h : s.takeReady p = u
  unfold State.takeReady at h
  try unfold State.message at h
  try dsimp only at h
  (repeat' split at h) <;> subst h <;> simp

@[simp] theorem takeBookIn_hlc (s : State) (p : Printer) (b : Text) (x y : Nat) :
    (s.takeBookIn p b x y).hlc.clock = s.hlc.clock ∧ (s.takeBookIn p b x y).hlc.rate = s.hlc.rate ∧
    (s.takeBookIn p b x y).hlc.receive = s.hlc.receive ∧ (s.takeBookIn p b x y).hlc.buffer = s.hlc.buffer ∧
    (s.takeBookIn p b x y).hlc.startKind = s.hlc.startKind ∧
    (s.takeBookIn p b x y).hlc.startCause = s.hlc.startCause ∧
    (s.takeBookIn p b x y).hlc.restarting = s.hlc.restarting := by
  generalize h : s.takeBookIn p b x y = u
  unfold State.takeBookIn at h
  try unfold State.message at h
  try dsimp only at h
  (repeat' split at h) <;> subst h <;> simp

@[simp] theorem takeLineDone_hlc (s : State) (p : Printer) :
    (s.takeLineDone p).hlc.clock = s.hlc.clock ∧ (s.takeLineDone p).hlc.rate = s.hlc.rate ∧
    (s.takeLineDone p).hlc.receive = s.hlc.receive ∧ (s.takeLineDone p).hlc.buffer = s.hlc.buffer ∧
    (s.takeLineDone p).hlc.startKind = s.hlc.startKind ∧ (s.takeLineDone p).hlc.startCause = s.hlc.startCause ∧
    (s.takeLineDone p).hlc.restarting = s.hlc.restarting := by
  generalize h : s.takeLineDone p = u
  unfold State.takeLineDone at h
  try unfold State.message at h
  try dsimp only at h
  (repeat' split at h) <;> subst h <;> simp

@[simp] theorem takePageFull_hlc (s : State) (p : Printer) :
    (s.takePageFull p).hlc.clock = s.hlc.clock ∧ (s.takePageFull p).hlc.rate = s.hlc.rate ∧
    (s.takePageFull p).hlc.receive = s.hlc.receive ∧ (s.takePageFull p).hlc.buffer = s.hlc.buffer ∧
    (s.takePageFull p).hlc.startKind = s.hlc.startKind ∧ (s.takePageFull p).hlc.startCause = s.hlc.startCause ∧
    (s.takePageFull p).hlc.restarting = s.hlc.restarting := by
  generalize h : s.takePageFull p = u
  unfold State.takePageFull at h
  try unfold State.message at h
  try dsimp only at h
  (repeat' split at h) <;> subst h <;> simp

@[simp] theorem failPrinter_hlc (s : State) (p : Printer) (c : FaultCode) :
    (s.failPrinter p c).hlc.clock = s.hlc.clock ∧ (s.failPrinter p c).hlc.rate = s.hlc.rate ∧
    (s.failPrinter p c).hlc.receive = s.hlc.receive ∧ (s.failPrinter p c).hlc.buffer = s.hlc.buffer ∧
    (s.failPrinter p c).hlc.startKind = s.hlc.startKind ∧ (s.failPrinter p c).hlc.startCause = s.hlc.startCause ∧
    (s.failPrinter p c).hlc.restarting = s.hlc.restarting := by
  simp [State.failPrinter]

@[simp] theorem losePrinter_hlc (s : State) (p : Printer) :
    (s.losePrinter p).hlc.clock = s.hlc.clock ∧ (s.losePrinter p).hlc.rate = s.hlc.rate ∧
    (s.losePrinter p).hlc.receive = s.hlc.receive ∧ (s.losePrinter p).hlc.buffer = s.hlc.buffer ∧
    (s.losePrinter p).hlc.startKind = s.hlc.startKind ∧ (s.losePrinter p).hlc.startCause = s.hlc.startCause ∧
    (s.losePrinter p).hlc.restarting = s.hlc.restarting := by
  simp [State.losePrinter]

@[simp] theorem probeRunOut_hlc (s : State) (p : Printer) :
    (s.probeRunOut p).hlc.clock = s.hlc.clock ∧ (s.probeRunOut p).hlc.rate = s.hlc.rate ∧
    (s.probeRunOut p).hlc.receive = s.hlc.receive ∧ (s.probeRunOut p).hlc.buffer = s.hlc.buffer ∧
    (s.probeRunOut p).hlc.startKind = s.hlc.startKind ∧ (s.probeRunOut p).hlc.startCause = s.hlc.startCause ∧
    (s.probeRunOut p).hlc.restarting = s.hlc.restarting := by
  generalize h : s.probeRunOut p = u
  unfold State.probeRunOut at h
  try dsimp only at h
  (repeat' split at h) <;> subst h <;> simp

@[simp] theorem suspend_hlc (s : State) (w : SuspendReason) (i : SuspendItem) :
    (s.suspend w i).hlc.clock = s.hlc.clock ∧ (s.suspend w i).hlc.rate = s.hlc.rate ∧
    (s.suspend w i).hlc.receive = s.hlc.receive ∧ (s.suspend w i).hlc.buffer = s.hlc.buffer ∧
    (s.suspend w i).hlc.startKind = s.hlc.startKind ∧ (s.suspend w i).hlc.startCause = s.hlc.startCause ∧
    (s.suspend w i).hlc.restarting = s.hlc.restarting := by
  simp [State.suspend]

@[simp] theorem complete_hlc (s : State) (b : Batch) :
    (s.complete b).hlc.clock = s.hlc.clock ∧ (s.complete b).hlc.rate = s.hlc.rate ∧
    (s.complete b).hlc.receive = s.hlc.receive ∧ (s.complete b).hlc.buffer = s.hlc.buffer ∧
    (s.complete b).hlc.startKind = s.hlc.startKind ∧ (s.complete b).hlc.startCause = s.hlc.startCause ∧
    (s.complete b).hlc.restarting = s.hlc.restarting := by
  simp [State.complete]

@[simp] theorem takeAck_hlc (s : State) (n : Nat) :
    (s.takeAck n).hlc.clock = s.hlc.clock ∧ (s.takeAck n).hlc.rate = s.hlc.rate ∧
    (s.takeAck n).hlc.receive = s.hlc.receive ∧ (s.takeAck n).hlc.buffer = s.hlc.buffer ∧
    (s.takeAck n).hlc.startKind = s.hlc.startKind ∧ (s.takeAck n).hlc.startCause = s.hlc.startCause ∧
    (s.takeAck n).hlc.restarting = s.hlc.restarting := by
  generalize h : s.takeAck n = u
  unfold State.takeAck at h
  try dsimp only at h
  (repeat' split at h) <;> subst h <;> simp

@[simp] theorem takeNak_hlc (s : State) (n : Nat) :
    (s.takeNak n).hlc.clock = s.hlc.clock ∧ (s.takeNak n).hlc.rate = s.hlc.rate ∧
    (s.takeNak n).hlc.receive = s.hlc.receive ∧ (s.takeNak n).hlc.buffer = s.hlc.buffer ∧
    (s.takeNak n).hlc.startKind = s.hlc.startKind ∧ (s.takeNak n).hlc.startCause = s.hlc.startCause ∧
    (s.takeNak n).hlc.restarting = s.hlc.restarting := by
  generalize h : s.takeNak n = u
  unfold State.takeNak at h
  try dsimp only at h
  (repeat' split at h) <;> subst h <;> simp

@[simp] theorem takeReject_hlc (s : State) (c : Nat) :
    (s.takeReject c).hlc.clock = s.hlc.clock ∧ (s.takeReject c).hlc.rate = s.hlc.rate ∧
    (s.takeReject c).hlc.receive = s.hlc.receive ∧ (s.takeReject c).hlc.buffer = s.hlc.buffer ∧
    (s.takeReject c).hlc.startKind = s.hlc.startKind ∧ (s.takeReject c).hlc.startCause = s.hlc.startCause ∧
    (s.takeReject c).hlc.restarting = s.hlc.restarting := by
  generalize h : s.takeReject c = u
  unfold State.takeReject at h
  try dsimp only at h
  (repeat' split at h) <;> subst h <;> simp

@[simp] theorem settle_hlc (s : State) (n : Nat) :
    (s.settle n).hlc.clock = s.hlc.clock ∧ (s.settle n).hlc.rate = s.hlc.rate ∧
    (s.settle n).hlc.receive = s.hlc.receive ∧ (s.settle n).hlc.buffer = s.hlc.buffer ∧
    (s.settle n).hlc.startKind = s.hlc.startKind ∧ (s.settle n).hlc.startCause = s.hlc.startCause ∧
    (s.settle n).hlc.restarting = s.hlc.restarting := by
  generalize h : s.settle n = u
  unfold State.settle at h
  try dsimp only at h
  (repeat' split at h) <;> subst h <;> simp

@[simp] theorem takeEcho_hlc (s : State) (x : Text) :
    (s.takeEcho x).hlc.clock = s.hlc.clock ∧ (s.takeEcho x).hlc.rate = s.hlc.rate ∧
    (s.takeEcho x).hlc.receive = s.hlc.receive ∧ (s.takeEcho x).hlc.buffer = s.hlc.buffer ∧
    (s.takeEcho x).hlc.startKind = s.hlc.startKind ∧ (s.takeEcho x).hlc.startCause = s.hlc.startCause ∧
    (s.takeEcho x).hlc.restarting = s.hlc.restarting := by
  generalize h : s.takeEcho x = u
  unfold State.takeEcho at h
  try dsimp only at h
  (repeat' split at h) <;> subst h <;> simp

@[simp] theorem ackRunOut_hlc (s : State) :
    (s.ackRunOut).hlc.clock = s.hlc.clock ∧ (s.ackRunOut).hlc.rate = s.hlc.rate ∧
    (s.ackRunOut).hlc.receive = s.hlc.receive ∧ (s.ackRunOut).hlc.buffer = s.hlc.buffer ∧
    (s.ackRunOut).hlc.startKind = s.hlc.startKind ∧ (s.ackRunOut).hlc.startCause = s.hlc.startCause ∧
    (s.ackRunOut).hlc.restarting = s.hlc.restarting := by
  generalize h : s.ackRunOut = u
  unfold State.ackRunOut at h
  try dsimp only at h
  (repeat' split at h) <;> subst h <;> simp

@[simp] theorem echoRunOut_hlc (s : State) :
    (s.echoRunOut).hlc.clock = s.hlc.clock ∧ (s.echoRunOut).hlc.rate = s.hlc.rate ∧
    (s.echoRunOut).hlc.receive = s.hlc.receive ∧ (s.echoRunOut).hlc.buffer = s.hlc.buffer ∧
    (s.echoRunOut).hlc.startKind = s.hlc.startKind ∧ (s.echoRunOut).hlc.startCause = s.hlc.startCause ∧
    (s.echoRunOut).hlc.restarting = s.hlc.restarting := by
  generalize h : s.echoRunOut = u
  unfold State.echoRunOut at h
  try dsimp only at h
  (repeat' split at h) <;> subst h <;> simp

@[simp] theorem holdRunOut_hlc (s : State) :
    (s.holdRunOut).hlc.clock = s.hlc.clock ∧ (s.holdRunOut).hlc.rate = s.hlc.rate ∧
    (s.holdRunOut).hlc.receive = s.hlc.receive ∧ (s.holdRunOut).hlc.buffer = s.hlc.buffer ∧
    (s.holdRunOut).hlc.startKind = s.hlc.startKind ∧ (s.holdRunOut).hlc.startCause = s.hlc.startCause ∧
    (s.holdRunOut).hlc.restarting = s.hlc.restarting := by
  generalize h : s.holdRunOut = u
  unfold State.holdRunOut at h
  try dsimp only at h
  (repeat' split at h) <;> subst h <;> simp

@[simp] theorem loseCarrier_hlc (s : State) :
    (s.loseCarrier).hlc.clock = s.hlc.clock ∧ (s.loseCarrier).hlc.rate = s.hlc.rate ∧
    (s.loseCarrier).hlc.receive = s.hlc.receive ∧ (s.loseCarrier).hlc.buffer = s.hlc.buffer ∧
    (s.loseCarrier).hlc.startKind = s.hlc.startKind ∧ (s.loseCarrier).hlc.startCause = s.hlc.startCause ∧
    (s.loseCarrier).hlc.restarting = s.hlc.restarting := by
  generalize h : s.loseCarrier = u
  unfold State.loseCarrier at h
  try dsimp only at h
  (repeat' split at h) <;> subst h <;> simp

@[simp] theorem takeCut_hlc (s : State) (c : CutCause) :
    (s.takeCut c).hlc.clock = s.hlc.clock ∧ (s.takeCut c).hlc.rate = s.hlc.rate ∧
    (s.takeCut c).hlc.receive = s.hlc.receive ∧ (s.takeCut c).hlc.buffer = s.hlc.buffer ∧
    (s.takeCut c).hlc.startKind = s.hlc.startKind ∧ (s.takeCut c).hlc.startCause = s.hlc.startCause ∧
    (s.takeCut c).hlc.restarting = s.hlc.restarting := by
  generalize h : s.takeCut c = u
  unfold State.takeCut at h
  try dsimp only at h
  (repeat' split at h) <;> subst h <;> simp

@[simp] theorem gateCheck_hlc (s : State) :
    (s.gateCheck).hlc.clock = s.hlc.clock ∧ (s.gateCheck).hlc.rate = s.hlc.rate ∧
    (s.gateCheck).hlc.receive = s.hlc.receive ∧ (s.gateCheck).hlc.buffer = s.hlc.buffer ∧
    (s.gateCheck).hlc.startKind = s.hlc.startKind ∧ (s.gateCheck).hlc.startCause = s.hlc.startCause ∧
    (s.gateCheck).hlc.restarting = s.hlc.restarting := by
  generalize h : s.gateCheck = u
  unfold State.gateCheck at h
  try dsimp only at h
  (repeat' split at h) <;> subst h <;> simp

@[simp] theorem trigger_hlc (s : State) (a : Arm) :
    (s.trigger a).hlc.clock = s.hlc.clock ∧ (s.trigger a).hlc.rate = s.hlc.rate ∧
    (s.trigger a).hlc.receive = s.hlc.receive ∧ (s.trigger a).hlc.buffer = s.hlc.buffer ∧
    (s.trigger a).hlc.startKind = s.hlc.startKind ∧ (s.trigger a).hlc.startCause = s.hlc.startCause ∧
    (s.trigger a).hlc.restarting = s.hlc.restarting := by
  generalize h : s.trigger a = u
  unfold State.trigger at h
  try dsimp only at h
  (repeat' split at h) <;> subst h <;> simp

@[simp] theorem compareTrigger_hlc (s : State) :
    (s.compareTrigger).hlc.clock = s.hlc.clock ∧ (s.compareTrigger).hlc.rate = s.hlc.rate ∧
    (s.compareTrigger).hlc.receive = s.hlc.receive ∧ (s.compareTrigger).hlc.buffer = s.hlc.buffer ∧
    (s.compareTrigger).hlc.startKind = s.hlc.startKind ∧ (s.compareTrigger).hlc.startCause = s.hlc.startCause ∧
    (s.compareTrigger).hlc.restarting = s.hlc.restarting := by
  generalize h : s.compareTrigger = u
  unfold State.compareTrigger at h
  try dsimp only at h
  (repeat' split at h) <;> subst h <;> simp

@[simp] theorem postTo_hlc (s : State) (k : Kind) (st : Station) (t : Till) (b : List (Denom × Nat)) (a : Option Text) :
    (s.postTo k st t b a).hlc.clock = s.hlc.clock ∧ (s.postTo k st t b a).hlc.rate = s.hlc.rate ∧
    (s.postTo k st t b a).hlc.receive = s.hlc.receive ∧ (s.postTo k st t b a).hlc.buffer = s.hlc.buffer ∧
    (s.postTo k st t b a).hlc.startKind = s.hlc.startKind ∧ (s.postTo k st t b a).hlc.startCause = s.hlc.startCause ∧
    (s.postTo k st t b a).hlc.restarting = s.hlc.restarting := by
  simp [State.postTo]

@[simp] theorem applyVoid_hlc (s : State) (st : Station) (e : Entry) (b : List (Denom × Nat)) :
    (s.applyVoid st e b).hlc.clock = s.hlc.clock ∧ (s.applyVoid st e b).hlc.rate = s.hlc.rate ∧
    (s.applyVoid st e b).hlc.receive = s.hlc.receive ∧ (s.applyVoid st e b).hlc.buffer = s.hlc.buffer ∧
    (s.applyVoid st e b).hlc.startKind = s.hlc.startKind ∧ (s.applyVoid st e b).hlc.startCause = s.hlc.startCause ∧
    (s.applyVoid st e b).hlc.restarting = s.hlc.restarting := by
  simp [State.applyVoid]

@[simp] theorem adjust_hlc (s : State) (st : Station) (t : Till) (c : Counts) (v : Vector Int 10) :
    (s.adjust st t c v).hlc.clock = s.hlc.clock ∧ (s.adjust st t c v).hlc.rate = s.hlc.rate ∧
    (s.adjust st t c v).hlc.receive = s.hlc.receive ∧ (s.adjust st t c v).hlc.buffer = s.hlc.buffer ∧
    (s.adjust st t c v).hlc.startKind = s.hlc.startKind ∧ (s.adjust st t c v).hlc.startCause = s.hlc.startCause ∧
    (s.adjust st t c v).hlc.restarting = s.hlc.restarting := by
  simp [State.adjust]

@[simp] theorem offer_hlc (s : State) (st : Station) (a b : Till) (c : List (Denom × Nat)) (n : Nat) :
    (s.offer st a b c n).hlc.clock = s.hlc.clock ∧ (s.offer st a b c n).hlc.rate = s.hlc.rate ∧
    (s.offer st a b c n).hlc.receive = s.hlc.receive ∧ (s.offer st a b c n).hlc.buffer = s.hlc.buffer ∧
    (s.offer st a b c n).hlc.startKind = s.hlc.startKind ∧ (s.offer st a b c n).hlc.startCause = s.hlc.startCause ∧
    (s.offer st a b c n).hlc.restarting = s.hlc.restarting := by
  simp [State.offer]

@[simp] theorem settleTransfer_hlc (s : State) (x : Transfer) (k : Kind) (st : Station) (a b : Till) :
    (s.settleTransfer x k st a b).hlc.clock = s.hlc.clock ∧ (s.settleTransfer x k st a b).hlc.rate = s.hlc.rate ∧
    (s.settleTransfer x k st a b).hlc.receive = s.hlc.receive ∧
    (s.settleTransfer x k st a b).hlc.buffer = s.hlc.buffer ∧
    (s.settleTransfer x k st a b).hlc.startKind = s.hlc.startKind ∧
    (s.settleTransfer x k st a b).hlc.startCause = s.hlc.startCause ∧
    (s.settleTransfer x k st a b).hlc.restarting = s.hlc.restarting := by
  simp [State.settleTransfer]

@[simp] theorem returnTransfer_hlc (s : State) (x : Transfer) :
    (s.returnTransfer x).hlc.clock = s.hlc.clock ∧ (s.returnTransfer x).hlc.rate = s.hlc.rate ∧
    (s.returnTransfer x).hlc.receive = s.hlc.receive ∧ (s.returnTransfer x).hlc.buffer = s.hlc.buffer ∧
    (s.returnTransfer x).hlc.startKind = s.hlc.startKind ∧ (s.returnTransfer x).hlc.startCause = s.hlc.startCause ∧
    (s.returnTransfer x).hlc.restarting = s.hlc.restarting := by
  simp [State.returnTransfer]

@[simp] theorem expire_hlc (s : State) (x : Transfer) :
    (s.expire x).hlc.clock = s.hlc.clock ∧ (s.expire x).hlc.rate = s.hlc.rate ∧
    (s.expire x).hlc.receive = s.hlc.receive ∧ (s.expire x).hlc.buffer = s.hlc.buffer ∧
    (s.expire x).hlc.startKind = s.hlc.startKind ∧ (s.expire x).hlc.startCause = s.hlc.startCause ∧
    (s.expire x).hlc.restarting = s.hlc.restarting := by
  generalize h : s.expire x = u
  unfold State.expire at h
  try dsimp only at h
  (repeat' split at h) <;> subst h <;> simp

@[simp] theorem loseStation_hlc (s : State) (st : Station) :
    (s.loseStation st).hlc.clock = s.hlc.clock ∧ (s.loseStation st).hlc.rate = s.hlc.rate ∧
    (s.loseStation st).hlc.receive = s.hlc.receive ∧ (s.loseStation st).hlc.buffer = s.hlc.buffer ∧
    (s.loseStation st).hlc.startKind = s.hlc.startKind ∧ (s.loseStation st).hlc.startCause = s.hlc.startCause ∧
    (s.loseStation st).hlc.restarting = s.hlc.restarting := by
  generalize h : s.loseStation st = u
  unfold State.loseStation at h
  try dsimp only at h
  (repeat' split at h) <;> subst h <;> simp

@[simp] theorem restartStations_hlc (s : State) :
    (s.restartStations).hlc.clock = s.hlc.clock ∧ (s.restartStations).hlc.rate = s.hlc.rate ∧
    (s.restartStations).hlc.receive = s.hlc.receive ∧ (s.restartStations).hlc.buffer = s.hlc.buffer ∧
    (s.restartStations).hlc.startKind = s.hlc.startKind ∧ (s.restartStations).hlc.startCause = s.hlc.startCause ∧
    (s.restartStations).hlc.restarting = s.hlc.restarting := by
  unfold State.restartStations
  try dsimp only
  refine ⟨?_, ?_, ?_, ?_, ?_, ?_, ?_⟩
  · exact (foldl_keeps _ (fun s : State => s.hlc.clock) (fun (s : State) b => by (try split) <;> simp) _ _).trans (by simp)
  · exact (foldl_keeps _ (fun s : State => s.hlc.rate) (fun (s : State) b => by (try split) <;> simp) _ _).trans (by simp)
  · exact (foldl_keeps _ (fun s : State => s.hlc.receive) (fun (s : State) b => by (try split) <;> simp) _ _).trans (by simp)
  · exact (foldl_keeps _ (fun s : State => s.hlc.buffer) (fun (s : State) b => by (try split) <;> simp) _ _).trans (by simp)
  · exact (foldl_keeps _ (fun s : State => s.hlc.startKind) (fun (s : State) b => by (try split) <;> simp) _ _).trans (by simp)
  · exact (foldl_keeps _ (fun s : State => s.hlc.startCause) (fun (s : State) b => by (try split) <;> simp) _ _).trans (by simp)
  · exact (foldl_keeps _ (fun s : State => s.hlc.restarting) (fun (s : State) b => by (try split) <;> simp) _ _).trans (by simp)

@[simp] theorem interruptJobs_hlc (s : State) :
    (s.interruptJobs).hlc.clock = s.hlc.clock ∧ (s.interruptJobs).hlc.rate = s.hlc.rate ∧
    (s.interruptJobs).hlc.receive = s.hlc.receive ∧ (s.interruptJobs).hlc.buffer = s.hlc.buffer ∧
    (s.interruptJobs).hlc.startKind = s.hlc.startKind ∧ (s.interruptJobs).hlc.startCause = s.hlc.startCause ∧
    (s.interruptJobs).hlc.restarting = s.hlc.restarting := by
  unfold State.interruptJobs
  try dsimp only
  refine ⟨?_, ?_, ?_, ?_, ?_, ?_, ?_⟩
  · exact (foldl_keeps _ (fun s : State => s.hlc.clock) (fun (s : State) b => by (try split) <;> simp) _ _).trans (by simp)
  · exact (foldl_keeps _ (fun s : State => s.hlc.rate) (fun (s : State) b => by (try split) <;> simp) _ _).trans (by simp)
  · exact (foldl_keeps _ (fun s : State => s.hlc.receive) (fun (s : State) b => by (try split) <;> simp) _ _).trans (by simp)
  · exact (foldl_keeps _ (fun s : State => s.hlc.buffer) (fun (s : State) b => by (try split) <;> simp) _ _).trans (by simp)
  · exact (foldl_keeps _ (fun s : State => s.hlc.startKind) (fun (s : State) b => by (try split) <;> simp) _ _).trans (by simp)
  · exact (foldl_keeps _ (fun s : State => s.hlc.startCause) (fun (s : State) b => by (try split) <;> simp) _ _).trans (by simp)
  · exact (foldl_keeps _ (fun s : State => s.hlc.restarting) (fun (s : State) b => by (try split) <;> simp) _ _).trans (by simp)

@[simp] theorem restartSend_hlc (s : State) :
    (s.restartSend).hlc.clock = s.hlc.clock ∧ (s.restartSend).hlc.rate = s.hlc.rate ∧
    (s.restartSend).hlc.receive = s.hlc.receive ∧ (s.restartSend).hlc.buffer = s.hlc.buffer ∧
    (s.restartSend).hlc.startKind = s.hlc.startKind ∧ (s.restartSend).hlc.startCause = s.hlc.startCause ∧
    (s.restartSend).hlc.restarting = s.hlc.restarting := by
  generalize h : s.restartSend = u
  unfold State.restartSend at h
  try dsimp only at h
  (repeat' split at h) <;> subst h <;> simp

@[simp] theorem restartCut_hlc (s : State) :
    (s.restartCut).hlc.clock = s.hlc.clock ∧ (s.restartCut).hlc.rate = s.hlc.rate ∧
    (s.restartCut).hlc.receive = s.hlc.receive ∧ (s.restartCut).hlc.buffer = s.hlc.buffer ∧
    (s.restartCut).hlc.startKind = s.hlc.startKind ∧ (s.restartCut).hlc.startCause = s.hlc.startCause ∧
    (s.restartCut).hlc.restarting = s.hlc.restarting := by
  simp [State.restartCut]

@[simp] theorem cancelQueued_hlc (s : State) (st : Station) :
    (s.cancelQueued st).hlc.clock = s.hlc.clock ∧ (s.cancelQueued st).hlc.rate = s.hlc.rate ∧
    (s.cancelQueued st).hlc.receive = s.hlc.receive ∧ (s.cancelQueued st).hlc.buffer = s.hlc.buffer ∧
    (s.cancelQueued st).hlc.startKind = s.hlc.startKind ∧ (s.cancelQueued st).hlc.startCause = s.hlc.startCause ∧
    (s.cancelQueued st).hlc.restarting = s.hlc.restarting := by
  unfold State.cancelQueued
  try dsimp only
  refine ⟨?_, ?_, ?_, ?_, ?_, ?_, ?_⟩
  · exact (foldl_keeps _ (fun s : State => s.hlc.clock) (fun (s : State) b => by (try split) <;> simp) _ _).trans (by simp)
  · exact (foldl_keeps _ (fun s : State => s.hlc.rate) (fun (s : State) b => by (try split) <;> simp) _ _).trans (by simp)
  · exact (foldl_keeps _ (fun s : State => s.hlc.receive) (fun (s : State) b => by (try split) <;> simp) _ _).trans (by simp)
  · exact (foldl_keeps _ (fun s : State => s.hlc.buffer) (fun (s : State) b => by (try split) <;> simp) _ _).trans (by simp)
  · exact (foldl_keeps _ (fun s : State => s.hlc.startKind) (fun (s : State) b => by (try split) <;> simp) _ _).trans (by simp)
  · exact (foldl_keeps _ (fun s : State => s.hlc.startCause) (fun (s : State) b => by (try split) <;> simp) _ _).trans (by simp)
  · exact (foldl_keeps _ (fun s : State => s.hlc.restarting) (fun (s : State) b => by (try split) <;> simp) _ _).trans (by simp)

@[simp] theorem forceSignOff_hlc (s : State) (st : Station) :
    (s.forceSignOff st).hlc.clock = s.hlc.clock ∧ (s.forceSignOff st).hlc.rate = s.hlc.rate ∧
    (s.forceSignOff st).hlc.receive = s.hlc.receive ∧ (s.forceSignOff st).hlc.buffer = s.hlc.buffer ∧
    (s.forceSignOff st).hlc.startKind = s.hlc.startKind ∧ (s.forceSignOff st).hlc.startCause = s.hlc.startCause ∧
    (s.forceSignOff st).hlc.restarting = s.hlc.restarting := by
  generalize h : s.forceSignOff st = u
  unfold State.forceSignOff at h
  try dsimp only at h
  (repeat' split at h) <;> subst h <;> simp

@[simp] theorem printerRunOut_hlc (s : State) (p : Printer) :
    (s.printerRunOut p).hlc.clock = s.hlc.clock ∧ (s.printerRunOut p).hlc.rate = s.hlc.rate ∧
    (s.printerRunOut p).hlc.receive = s.hlc.receive ∧ (s.printerRunOut p).hlc.buffer = s.hlc.buffer ∧
    (s.printerRunOut p).hlc.startKind = s.hlc.startKind ∧ (s.printerRunOut p).hlc.startCause = s.hlc.startCause ∧
    (s.printerRunOut p).hlc.restarting = s.hlc.restarting := by
  generalize h : s.printerRunOut p = u
  unfold State.printerRunOut at h
  try dsimp only at h
  (repeat' split at h) <;> subst h <;> simp

@[simp] theorem tickTlu_hlc (s : State) :
    (s.tickTlu).hlc.clock = s.hlc.clock ∧ (s.tickTlu).hlc.rate = s.hlc.rate ∧
    (s.tickTlu).hlc.receive = s.hlc.receive ∧ (s.tickTlu).hlc.buffer = s.hlc.buffer ∧
    (s.tickTlu).hlc.startKind = s.hlc.startKind ∧ (s.tickTlu).hlc.startCause = s.hlc.startCause ∧
    (s.tickTlu).hlc.restarting = s.hlc.restarting := by
  unfold State.tickTlu
  try dsimp only
  refine ⟨?_, ?_, ?_, ?_, ?_, ?_, ?_⟩
  · exact (foldl_keeps _ (fun s : State => s.hlc.clock) (fun (s : State) b => by (try split) <;> simp) _ _).trans (by simp)
  · exact (foldl_keeps _ (fun s : State => s.hlc.rate) (fun (s : State) b => by (try split) <;> simp) _ _).trans (by simp)
  · exact (foldl_keeps _ (fun s : State => s.hlc.receive) (fun (s : State) b => by (try split) <;> simp) _ _).trans (by simp)
  · exact (foldl_keeps _ (fun s : State => s.hlc.buffer) (fun (s : State) b => by (try split) <;> simp) _ _).trans (by simp)
  · exact (foldl_keeps _ (fun s : State => s.hlc.startKind) (fun (s : State) b => by (try split) <;> simp) _ _).trans (by simp)
  · exact (foldl_keeps _ (fun s : State => s.hlc.startCause) (fun (s : State) b => by (try split) <;> simp) _ _).trans (by simp)
  · exact (foldl_keeps _ (fun s : State => s.hlc.restarting) (fun (s : State) b => by (try split) <;> simp) _ _).trans (by simp)

@[simp] theorem tickStu_hlc (s : State) :
    (s.tickStu).hlc.clock = s.hlc.clock ∧ (s.tickStu).hlc.rate = s.hlc.rate ∧
    (s.tickStu).hlc.receive = s.hlc.receive ∧ (s.tickStu).hlc.buffer = s.hlc.buffer ∧
    (s.tickStu).hlc.startKind = s.hlc.startKind ∧ (s.tickStu).hlc.startCause = s.hlc.startCause ∧
    (s.tickStu).hlc.restarting = s.hlc.restarting := by
  unfold State.tickStu
  try dsimp only
  refine ⟨?_, ?_, ?_, ?_, ?_, ?_, ?_⟩
  · exact (foldl_keeps _ (fun s : State => s.hlc.clock) (fun (s : State) b => by (try dsimp only); split <;> simp) _ _).trans (by simp)
  · exact (foldl_keeps _ (fun s : State => s.hlc.rate) (fun (s : State) b => by (try dsimp only); split <;> simp) _ _).trans (by simp)
  · exact (foldl_keeps _ (fun s : State => s.hlc.receive) (fun (s : State) b => by (try dsimp only); split <;> simp) _ _).trans (by simp)
  · exact (foldl_keeps _ (fun s : State => s.hlc.buffer) (fun (s : State) b => by (try dsimp only); split <;> simp) _ _).trans (by simp)
  · exact (foldl_keeps _ (fun s : State => s.hlc.startKind) (fun (s : State) b => by (try dsimp only); split <;> simp) _ _).trans (by simp)
  · exact (foldl_keeps _ (fun s : State => s.hlc.startCause) (fun (s : State) b => by (try dsimp only); split <;> simp) _ _).trans (by simp)
  · exact (foldl_keeps _ (fun s : State => s.hlc.restarting) (fun (s : State) b => by (try dsimp only); split <;> simp) _ _).trans (by simp)

@[simp] theorem tickPjq_hlc (s : State) :
    (s.tickPjq).hlc.clock = s.hlc.clock ∧ (s.tickPjq).hlc.rate = s.hlc.rate ∧
    (s.tickPjq).hlc.receive = s.hlc.receive ∧ (s.tickPjq).hlc.buffer = s.hlc.buffer ∧
    (s.tickPjq).hlc.startKind = s.hlc.startKind ∧ (s.tickPjq).hlc.startCause = s.hlc.startCause ∧
    (s.tickPjq).hlc.restarting = s.hlc.restarting := by
  have keeps : ∀ (l : List Job) (s : State), (l.foldl (fun (s : State) j => s.waitRunOut j) s).hlc.clock = s.hlc.clock ∧ (l.foldl (fun (s : State) j => s.waitRunOut j) s).hlc.rate = s.hlc.rate ∧ (l.foldl (fun (s : State) j => s.waitRunOut j) s).hlc.receive = s.hlc.receive ∧ (l.foldl (fun (s : State) j => s.waitRunOut j) s).hlc.buffer = s.hlc.buffer ∧ (l.foldl (fun (s : State) j => s.waitRunOut j) s).hlc.startKind = s.hlc.startKind ∧ (l.foldl (fun (s : State) j => s.waitRunOut j) s).hlc.startCause = s.hlc.startCause ∧ (l.foldl (fun (s : State) j => s.waitRunOut j) s).hlc.restarting = s.hlc.restarting := by
    intro l s
    refine ⟨?_, ?_, ?_, ?_, ?_, ?_, ?_⟩
    · exact foldl_keeps _ (fun s : State => s.hlc.clock) (fun (s : State) b => by simp) _ _
    · exact foldl_keeps _ (fun s : State => s.hlc.rate) (fun (s : State) b => by simp) _ _
    · exact foldl_keeps _ (fun s : State => s.hlc.receive) (fun (s : State) b => by simp) _ _
    · exact foldl_keeps _ (fun s : State => s.hlc.buffer) (fun (s : State) b => by simp) _ _
    · exact foldl_keeps _ (fun s : State => s.hlc.startKind) (fun (s : State) b => by simp) _ _
    · exact foldl_keeps _ (fun s : State => s.hlc.startCause) (fun (s : State) b => by simp) _ _
    · exact foldl_keeps _ (fun s : State => s.hlc.restarting) (fun (s : State) b => by simp) _ _
  unfold State.tickPjq
  dsimp only
  split <;> simp [keeps]

@[simp] theorem tickPrc_hlc (s : State) :
    (s.tickPrc).hlc.clock = s.hlc.clock ∧ (s.tickPrc).hlc.rate = s.hlc.rate ∧
    (s.tickPrc).hlc.receive = s.hlc.receive ∧ (s.tickPrc).hlc.buffer = s.hlc.buffer ∧
    (s.tickPrc).hlc.startKind = s.hlc.startKind ∧ (s.tickPrc).hlc.startCause = s.hlc.startCause ∧
    (s.tickPrc).hlc.restarting = s.hlc.restarting := by
  unfold State.tickPrc
  try dsimp only
  refine ⟨?_, ?_, ?_, ?_, ?_, ?_, ?_⟩
  · exact (foldl_keeps _ (fun s : State => s.hlc.clock) (fun (s : State) b => by (try dsimp only); split <;> simp) _ _).trans (by simp)
  · exact (foldl_keeps _ (fun s : State => s.hlc.rate) (fun (s : State) b => by (try dsimp only); split <;> simp) _ _).trans (by simp)
  · exact (foldl_keeps _ (fun s : State => s.hlc.receive) (fun (s : State) b => by (try dsimp only); split <;> simp) _ _).trans (by simp)
  · exact (foldl_keeps _ (fun s : State => s.hlc.buffer) (fun (s : State) b => by (try dsimp only); split <;> simp) _ _).trans (by simp)
  · exact (foldl_keeps _ (fun s : State => s.hlc.startKind) (fun (s : State) b => by (try dsimp only); split <;> simp) _ _).trans (by simp)
  · exact (foldl_keeps _ (fun s : State => s.hlc.startCause) (fun (s : State) b => by (try dsimp only); split <;> simp) _ _).trans (by simp)
  · exact (foldl_keeps _ (fun s : State => s.hlc.restarting) (fun (s : State) b => by (try dsimp only); split <;> simp) _ _).trans (by simp)

@[simp] theorem tickHos_hlc (s : State) :
    (s.tickHos).hlc.clock = s.hlc.clock ∧ (s.tickHos).hlc.rate = s.hlc.rate ∧
    (s.tickHos).hlc.receive = s.hlc.receive ∧ (s.tickHos).hlc.buffer = s.hlc.buffer ∧
    (s.tickHos).hlc.startKind = s.hlc.startKind ∧ (s.tickHos).hlc.startCause = s.hlc.startCause ∧
    (s.tickHos).hlc.restarting = s.hlc.restarting := by
  generalize h : s.tickHos = u
  unfold State.tickHos at h
  try dsimp only at h
  (repeat' split at h) <;> subst h <;> simp

@[simp] theorem runOuts_hlc (s : State) :
    (s.runOuts).hlc.clock = s.hlc.clock ∧ (s.runOuts).hlc.rate = s.hlc.rate ∧
    (s.runOuts).hlc.receive = s.hlc.receive ∧ (s.runOuts).hlc.buffer = s.hlc.buffer ∧
    (s.runOuts).hlc.startKind = s.hlc.startKind ∧ (s.runOuts).hlc.startCause = s.hlc.startCause ∧
    (s.runOuts).hlc.restarting = s.hlc.restarting := by
  unfold State.runOuts
  try dsimp only
  refine ⟨?_, ?_, ?_, ?_, ?_, ?_, ?_⟩
  · exact (foldl_keeps _ (fun s : State => s.hlc.clock) (fun (s : State) b => by cases b <;> simp [TickBlock.run]) _ _).trans (by simp)
  · exact (foldl_keeps _ (fun s : State => s.hlc.rate) (fun (s : State) b => by cases b <;> simp [TickBlock.run]) _ _).trans (by simp)
  · exact (foldl_keeps _ (fun s : State => s.hlc.receive) (fun (s : State) b => by cases b <;> simp [TickBlock.run]) _ _).trans (by simp)
  · exact (foldl_keeps _ (fun s : State => s.hlc.buffer) (fun (s : State) b => by cases b <;> simp [TickBlock.run]) _ _).trans (by simp)
  · exact (foldl_keeps _ (fun s : State => s.hlc.startKind) (fun (s : State) b => by cases b <;> simp [TickBlock.run]) _ _).trans (by simp)
  · exact (foldl_keeps _ (fun s : State => s.hlc.startCause) (fun (s : State) b => by cases b <;> simp [TickBlock.run]) _ _).trans (by simp)
  · exact (foldl_keeps _ (fun s : State => s.hlc.restarting) (fun (s : State) b => by cases b <;> simp [TickBlock.run]) _ _).trans (by simp)

end Sys2Proof.Machine.State
end

