-- ==== Sys2Proof/Laws/Operations.lean ====
section
/-! SUPPORT. What the shared operations over ids, indicators, status slots, notices, picks, the ends of jobs, the replies and
slots of the screen line and the window of blocks do, in the words of Safety.lean: one lemma each, which a proof cites instead of unfolding the operation. -/

namespace Sys2Proof.Machine

open Sys2Proof

/-! ### One indicator of a set -/

theorem hasBit_setBit (v : BitVec 8) (i j : Indicator) (on : Bool) :
    hasBit (setBit v i on) j = if j = i then on else hasBit v j := by
  cases i <;> cases j <;> cases on <;> simp [hasBit, setBit, Indicator.bit]

theorem indicators_ext {a b : BitVec 8} (same : ∀ i : Indicator, hasBit a i = hasBit b i) : a = b := by
  refine BitVec.eq_of_getLsbD_eq fun n small => ?_
  match n, small with
  | 0, _ => exact same .tillOpen
  | 1, _ => exact same .tillCounting
  | 2, _ => exact same .limitHigh
  | 3, _ => exact same .limitLow
  | 4, _ => exact same .offerWaiting
  | 5, _ => exact same .insertBook
  | 6, _ => exact same .turnPage
  | 7, _ => exact same .cutArmed

/-! ### Frames, put together -/

theorem KeepsLine.refl (s : State) : KeepsLine s s := ⟨rfl, fun _ => rfl, rfl⟩

theorem KeepsLine.trans {s v u : State} (first : KeepsLine s v) (second : KeepsLine v u) : KeepsLine s u := by
  obtain ⟨slc₁, lines₁, slot₁⟩ := first
  obtain ⟨slc₂, lines₂, slot₂⟩ := second
  refine ⟨?_, fun x => ?_, slot₂.trans slot₁⟩
  · rw [slc₂, slc₁]
  · rw [lines₂ x, lines₁ x]

theorem OnlyIndicators.trans {st : Station} {a b : List Indicator} {s v u : State} (first : OnlyIndicators st a s v)
    (second : OnlyIndicators st b v u) : OnlyIndicators st (a ++ b) s u :=
  ⟨fun x away => (second.1 x away).trans (first.1 x away), fun i out =>
    (second.2 i fun h => out (List.mem_append_right a h)).trans (first.2 i fun h => out (List.mem_append_left b h))⟩

/-- Indicators that one operation changes and the next does not touch are still changed after both. -/
theorem OnlyIndicators.kept {st : Station} {a b : List Indicator} {s v u : State} (first : OnlyIndicators st a s v)
    (second : OnlyIndicators st b v u) (apart : ∀ i ∈ a, i ∉ b) (x : Station)
    (same : (u.line x).indicators = (s.line x).indicators) : (v.line x).indicators = (s.line x).indicators := by
  by_cases here : x = st
  · subst here
    refine indicators_ext fun i => ?_
    by_cases inside : i ∈ a
    · rw [← second.2 i (apart i inside), same]
    · exact first.2 i inside
  · rw [first.1 x here]

theorem SlotsFollow.refl (s : State) : SlotsFollow s s :=
  ⟨fun _ => ⟨fun changed => absurd rfl changed.2, fun _ => rfl⟩, fun _ out => ⟨fun changed => absurd rfl changed.2, fun _ => out⟩⟩

theorem SlotsFollow.trans {s v u : State} (first : SlotsFollow s v) (second : SlotsFollow v u) (same : u.stu = v.stu)
    (kept : ∀ x : Station, (u.line x).indicators = (s.line x).indicators → (v.line x).indicators = (s.line x).indicators) :
    SlotsFollow s u := by
  have presence : ∀ x : Station, u.presence x = v.presence x := fun x => by simp only [State.presence, State.station, same]
  have setup : ∀ x : Station, (u.station x).setup = (v.station x).setup := fun x => by simp only [State.station, same]
  have still : ∀ x : Station, Repainted x s v → Repainted x s u := fun x old =>
    ⟨(presence x).symm ▸ old.1, fun h => old.2 (kept x h)⟩
  have fresh : ∀ x : Station, Repainted x v u → Repainted x s u := fun x new =>
    ⟨new.1, fun h => new.2 (h.trans (kept x h).symm)⟩
  have once : ∀ x : Station, Repainted x s u → ¬ Repainted x v u → Repainted x s v ∧ (u.line x).indicators = (v.line x).indicators :=
    fun x all none' => by
      have eq : (u.line x).indicators = (v.line x).indicators := Classical.byContradiction fun h => none' ⟨all.1, h⟩
      exact ⟨⟨presence x ▸ all.1, eq ▸ all.2⟩, eq⟩
  refine ⟨fun x => ⟨fun all => ?_, fun none' => ?_⟩, fun sl out => ⟨fun all => ?_, fun none' => ?_⟩⟩
  · by_cases new : Repainted x v u
    · exact (second.1 x).1 new
    · obtain ⟨old, eq⟩ := once x all new
      rw [(second.1 x).2 new, (first.1 x).1 old, eq, setup]
  · rw [(second.1 x).2 fun new => none' (fresh x new), (first.1 x).2 fun old => none' (still x old)]
  · by_cases old : Repainted sl.station s v
    · have mid := (first.2 sl out).1 old
      by_cases new : Repainted sl.station v u
      · exact (second.2 _ mid).1 new
      · exact (second.2 _ mid).2 new
    · have mid := (first.2 sl out).2 old
      have new : Repainted sl.station v u := Classical.byContradiction fun h => old (once _ all h).1
      exact (second.2 _ mid).1 new
  · exact (second.2 _ ((first.2 sl out).2 fun old => none' (still _ old))).2 fun new => none' (fresh _ new)

/-! ### The next id (R40, R127) -/

theorem length_le_of_distinct (inside : List Nat) : ∀ held : List Nat, inside.Pairwise (· ≠ ·) → (∀ x ∈ inside, x ∈ held) →
    inside.length ≤ held.length := by
  induction inside with
  | nil => exact fun _ _ _ => Nat.zero_le _
  | cons x rest step =>
    intro held distinct member
    obtain ⟨first, others⟩ := List.pairwise_cons.mp distinct
    have here : x ∈ held := member x List.mem_cons_self
    have less := step (held.erase x) others fun y later =>
      (List.mem_erase_of_ne (first y later).symm).mpr (member y (List.mem_cons_of_mem x later))
    rw [List.length_erase_of_mem here] at less
    have := List.length_pos_of_mem here
    rw [List.length_cons]
    omega

/-- A table that leaves an id free gives the first one free after the last given. -/
theorem nextId_after (last : Nat) (held : List Nat) (few : held.length < 255) : NextIdAfter last held (nextId last held) := by
  have distinct : ((List.range 255).map fun k => (last + k) % 255 + 1).Pairwise (· ≠ ·) := by
    rw [List.pairwise_map]
    refine List.Pairwise.imp_of_mem (fun {a b} ha hb less same => ?_) List.pairwise_lt_range
    rw [List.mem_range] at ha hb
    omega
  unfold nextId
  cases found : ((List.range 255).map fun k => (last + k) % 255 + 1).find? fun i => !held.contains i with
  | none =>
    rw [List.find?_eq_none] at found
    have := length_le_of_distinct _ held distinct fun x member => by simpa using found x member
    simp only [List.length_map, List.length_range] at this
    omega
  | some id =>
    obtain ⟨free, k, bound, at', earlier⟩ := List.find?_eq_some_iff_getElem.mp found
    rw [List.getElem_map, List.getElem_range] at at'
    refine ⟨k, at'.symm, by simpa using free, fun i before => ?_⟩
    have := earlier i before
    rw [List.getElem_map, List.getElem_range] at this
    simpa using this
namespace State

/-! ### An indicator of a station -/

theorem setIndicator_slc (s : State) (st : Station) (i : Indicator) (on : Bool) :
    s.setIndicator st i on = { s with slc := (s.setIndicator st i on).slc } := by
  generalize done : s.setIndicator st i on = u
  unfold setIndicator at done
  dsimp only at done
  (repeat' split at done) <;> subst done <;> try rfl
  simp only [fillSlot, markRefilled]
  (repeat' split) <;> rfl

theorem line_fillSlot (s : State) (st x : Station) :
    (s.fillSlot st).line x = if x = st then { s.line st with slot := some (s.statusSet st) } else s.line x := by
  have marked : ∀ v : State, (v.markRefilled st).line x = v.line x := by
    intro v
    unfold markRefilled
    (repeat' split) <;> rfl
  rw [fillSlot, marked, line_setLine]

theorem fillSlot_slot (s : State) (st : Station) :
    (s.fillSlot st).slc.slot.map (fun sl => { sl with refilled := true }) =
      s.slc.slot.map fun sl => { sl with refilled := true } := by
  simp only [fillSlot, markRefilled, setLine]
  split
  · split <;> simp_all
  · simp_all

theorem fillSlot_slc (s : State) (st : Station) :
    (s.fillSlot st).slc = { s.slc with lines := (s.fillSlot st).slc.lines, slot := (s.fillSlot st).slc.slot } := by
  simp only [fillSlot, markRefilled]
  (repeat' split) <;> rfl

/-- What a block's call of SLC does: at a station signed on the indicator stands as asked, and nothing of the screen line differs
but indicators, status slot and the mark of a STATUS frame that is out. -/
theorem setIndicator_does (s : State) (st : Station) (i : Indicator) (on : Bool) :
    KeepsLine s (s.setIndicator st i on) ∧ OnlyIndicators st [i] s (s.setIndicator st i on) ∧
      ((s.signOn? st).isSome = true → hasBit ((s.setIndicator st i on).line st).indicators i = on) := by
  unfold setIndicator
  dsimp only
  split
  · exact ⟨KeepsLine.refl s, ⟨fun _ _ => rfl, fun _ _ => rfl⟩, fun _ => ‹_›⟩
  · have changed : ∀ x : Station, (s.setLine st { s.line st with indicators := setBit (s.line st).indicators i on }).line x =
        if x = st then { s.line st with indicators := setBit (s.line st).indicators i on } else s.line x := fun x => line_setLine s st x _
    have others : ∀ j : Indicator, j ∉ [i] → hasBit (setBit (s.line st).indicators i on) j = hasBit (s.line st).indicators j :=
      fun j out => by rw [hasBit_setBit, if_neg fun h : j = i => out (List.mem_singleton.mpr h)]
    split
    · refine ⟨⟨(fillSlot_slc _ st).trans rfl, fun x => ?_, (fillSlot_slot _ st).trans rfl⟩, ⟨fun x away => ?_, fun j out => ?_⟩, fun _ => ?_⟩
      · rw [line_fillSlot]
        by_cases h : x = st
        · subst h
          simp
        · simp [h, changed]
      · rw [line_fillSlot, if_neg away, changed, if_neg away]
      · rw [line_fillSlot, if_pos rfl, changed, if_pos rfl]
        exact others j out
      · rw [line_fillSlot, if_pos rfl, changed, if_pos rfl]
        simp [hasBit_setBit]
    · refine ⟨⟨rfl, fun x => ?_, rfl⟩, ⟨fun x away => ?_, fun j out => ?_⟩, fun _ => ?_⟩
      · rw [changed]
        by_cases h : x = st
        · subst h
          simp
        · simp [h]
      · rw [changed, if_neg away]
      · rw [changed, if_pos rfl]
        exact others j out
      · rw [changed, if_pos rfl]
        simp [hasBit_setBit]
    · exact ⟨KeepsLine.refl s, ⟨fun _ _ => rfl, fun _ _ => rfl⟩, fun signed => by simp_all [signOn?]⟩

theorem setIndicator_follows (s : State) (st : Station) (i : Indicator) (on : Bool) : SlotsFollow s (s.setIndicator st i on) := by
  unfold setIndicator
  dsimp only
  split
  · exact SlotsFollow.refl s
  · rename_i differs
    generalize made : s.setLine st { s.line st with indicators := setBit (s.line st).indicators i on } = v
    have lines : ∀ x : Station, v.line x = if x = st
        then { s.line st with indicators := setBit (s.line st).indicators i on } else s.line x := fun x => by
      subst made
      exact line_setLine s st x _
    have presence : ∀ x : Station, v.presence x = s.presence x := fun x => by
      subst made
      rfl
    have other : ∀ x : Station, x ≠ st → (v.line x).indicators = (s.line x).indicators := fun x away => by rw [lines, if_neg away]
    have slot : ∀ x : Station, (v.line x).slot = (s.line x).slot := fun x => by
      rw [lines]
      split
      · rename_i h
        rw [h]
      · rfl
    have out : v.slc.slot = s.slc.slot := by
      subst made
      rfl
    split
    · rename_i o signed
      have fills := v.line_fillSlot st
      have presence' : ∀ x : Station, (v.fillSlot st).presence x = s.presence x := fun x => by
        rw [← presence]
        unfold fillSlot markRefilled
        (repeat' split) <;> rfl
      have setup : ((v.fillSlot st).station st).setup = (v.station st).setup := by
        unfold fillSlot markRefilled
        (repeat' split) <;> rfl
      have ink : ∀ x : Station, ((v.fillSlot st).line x).indicators = (v.line x).indicators := fun x => by
        rw [fills]
        split
        · rename_i h
          rw [h]
        · rfl
      have painted : Repainted st s (v.fillSlot st) := by
        refine ⟨⟨o, (presence' st).trans signed⟩, fun same => differs ?_⟩
        rw [ink, lines, if_pos rfl] at same
        rw [← same, hasBit_setBit, if_pos rfl]
      have only : ∀ x : Station, Repainted x s (v.fillSlot st) → x = st := fun x changed =>
        Classical.byContradiction fun away => changed.2 ((ink x).trans (other x away))
      have marks : ∀ sl : Slot, s.slc.slot = some sl →
          (v.fillSlot st).slc.slot = some (if sl.station = st then { sl with refilled := true } else sl) := fun sl at' => by
        have there : (v.setLine st { v.line st with slot := some (v.statusSet st) }).slc.slot = some sl := out.trans at'
        unfold fillSlot markRefilled
        rw [there]
        dsimp only
        split
        · rfl
        · exact there
      refine ⟨fun x => ⟨fun changed => ?_, fun same => ?_⟩, fun sl at' => ⟨fun changed => ?_, fun same => ?_⟩⟩
      · obtain rfl := only x changed
        rw [ink, setup, fills, if_pos rfl]
        rfl
      · have away : x ≠ st := fun h => same (h ▸ painted)
        rw [fills, if_neg away, slot]
      · rw [marks sl at', if_pos (only _ changed)]
      · rw [marks sl at', if_neg fun h : sl.station = st => same (h.symm ▸ painted)]
    · rename_i o g lost
      have none' : ∀ x : Station, ¬ Repainted x s v := fun x changed => by
        obtain ⟨o', signed⟩ := changed.1
        by_cases h : x = st
        · rw [presence, h, lost] at signed
          cases signed
        · exact changed.2 (other x h)
      exact ⟨fun x => ⟨fun changed => absurd changed (none' x), fun _ => slot x⟩,
        fun sl at' => ⟨fun changed => absurd changed (none' _), fun _ => out.trans at'⟩⟩
    · exact SlotsFollow.refl s

theorem setIndicator_stu (s : State) (st : Station) (i : Indicator) (on : Bool) : (s.setIndicator st i on).stu = s.stu := by
  rw [setIndicator_slc]

/-- Two indicators of one station set in turn. -/
theorem setIndicator_follows_on {s v : State} {st : Station} {a : List Indicator} (follows : SlotsFollow s v) (only : OnlyIndicators st a s v)
    (i : Indicator) (on : Bool) (fresh : i ∉ a) : SlotsFollow s (v.setIndicator st i on) :=
  follows.trans (v.setIndicator_follows st i on) (v.setIndicator_stu st i on) (only.kept (v.setIndicator_does st i on).2.1
    fun _ inside h => fresh (List.mem_singleton.mp h ▸ inside))

/-- The five indicators of one station's hold follow the till it holds, and nothing else differs. -/
theorem syncHold_does (s : State) (st : Station) :
    HoldShown st s (s.syncHold st) ∧ KeepsLine s (s.syncHold st) ∧ s.syncHold st = { s with slc := (s.syncHold st).slc } := by
  obtain ⟨a, ha⟩ : ∃ a, a = s.setIndicator st .tillOpen (s.holdsIn st .opened) := ⟨_, rfl⟩
  obtain ⟨b, hb⟩ : ∃ b, b = a.setIndicator st .tillCounting (s.holdsIn st .counting) := ⟨_, rfl⟩
  obtain ⟨c, hc⟩ : ∃ c, c = b.setIndicator st .limitHigh (s.holdsTripped st .high) := ⟨_, rfl⟩
  obtain ⟨d, hd⟩ : ∃ d, d = c.setIndicator st .limitLow (s.holdsTripped st .low) := ⟨_, rfl⟩
  obtain ⟨e, he⟩ : ∃ e, e = d.setIndicator st .offerWaiting (s.offerWaiting st) := ⟨_, rfl⟩
  have whole : s.syncHold st = e := by
    subst he hd hc hb ha
    rfl
  obtain ⟨ka, oa, va⟩ := s.setIndicator_does st .tillOpen (s.holdsIn st .opened)
  obtain ⟨kb, ob, vb⟩ := a.setIndicator_does st .tillCounting (s.holdsIn st .counting)
  obtain ⟨kc, oc, vc⟩ := b.setIndicator_does st .limitHigh (s.holdsTripped st .high)
  obtain ⟨kd, od, vd⟩ := c.setIndicator_does st .limitLow (s.holdsTripped st .low)
  obtain ⟨ke, oe, ve⟩ := d.setIndicator_does st .offerWaiting (s.offerWaiting st)
  have fa := s.setIndicator_follows st .tillOpen (s.holdsIn st .opened)
  have la := s.setIndicator_slc st .tillOpen (s.holdsIn st .opened)
  have lb := a.setIndicator_slc st .tillCounting (s.holdsIn st .counting)
  have lc := b.setIndicator_slc st .limitHigh (s.holdsTripped st .high)
  have ld := c.setIndicator_slc st .limitLow (s.holdsTripped st .low)
  have le := d.setIndicator_slc st .offerWaiting (s.offerWaiting st)
  rw [← ha] at ka oa va fa la
  rw [← hb] at kb ob vb lb
  rw [← hc] at kc oc vc lc
  rw [← hd] at kd od vd ld
  rw [← he] at ke oe ve le
  have fb : SlotsFollow s b := hb ▸ setIndicator_follows_on fa oa .tillCounting _ (by decide)
  have fc : SlotsFollow s c := hc ▸ setIndicator_follows_on fb (oa.trans ob) .limitHigh _ (by decide)
  have fd : SlotsFollow s d := hd ▸ setIndicator_follows_on fc ((oa.trans ob).trans oc) .limitLow _ (by decide)
  have fe : SlotsFollow s e := he ▸ setIndicator_follows_on fd (((oa.trans ob).trans oc).trans od) .offerWaiting _ (by decide)
  have signed : ∀ v : State, v.stu = s.stu → v.signOn? st = s.signOn? st := fun v same => by
    simp only [signOn?, presence, station, same]
  have sa : a.stu = s.stu := by rw [la]
  have sb : b.stu = s.stu := by rw [lb, sa]
  have sc : c.stu = s.stu := by rw [lc, sb]
  have sd : d.stu = s.stu := by rw [ld, sc]
  have se : e.stu = s.stu := by rw [le, sd]
  have rest : e = { s with slc := e.slc } := by rw [le, ld, lc, lb, la]
  rw [whole]
  refine ⟨⟨fun o at' => ?_, (((oa.trans ob).trans oc).trans od).trans oe, fe⟩,
    (((ka.trans kb).trans kc).trans kd).trans ke, rest⟩
  have here : s.signOn? st = some o := (signed e se) ▸ at'
  have on : ∀ v : State, v.stu = s.stu → (v.signOn? st).isSome = true := fun v same => by rw [signed v same, here]; rfl
  have held : s.held st = o.held := by simp only [State.held, here, Option.bind_some]
  have tills : ∀ t : Till, e.till t = s.till t := fun t => by rw [rest]; rfl
  have monitors : ∀ t : Till, e.monitor t = s.monitor t := fun t => by rw [rest]; rfl
  have transfers : e.tlu = s.tlu := by rw [rest]
  simp only [tills, monitors, transfers]
  have away : ∀ {v w : State} {i j : Indicator}, OnlyIndicators st [j] v w → i ≠ j →
      hasBit (w.line st).indicators i = hasBit (v.line st).indicators i := fun only h =>
    only.2 _ fun inside => h (List.mem_singleton.mp inside)
  refine ⟨?_, ?_, ?_, ?_, ?_⟩
  · rw [away oe (by decide), away od (by decide), away oc (by decide), away ob (by decide), va (on s rfl), holdsIn, held]
    cases o.held <;> simp [Bool.beq_eq_decide_eq]
  · rw [away oe (by decide), away od (by decide), away oc (by decide), vb (on a sa), holdsIn, held]
    cases o.held <;> simp [Bool.beq_eq_decide_eq]
  · rw [away oe (by decide), away od (by decide), vc (on b sb), holdsTripped, held]
    cases o.held <;> simp [Bool.beq_eq_decide_eq]
  · rw [away oe (by decide), vd (on c sc), holdsTripped, held]
    cases o.held <;> simp [Bool.beq_eq_decide_eq]
  · rw [ve (on d sd), offerWaiting, held]
    cases o.held <;> simp [Bool.beq_eq_decide_eq]

theorem hasJobIn_eq (s : State) (st : Station) (x : JobState) :
    s.hasJobIn st x = s.pjq.jobs.any fun j => decide (j.station = st ∧ j.state = x) := by
  simp [hasJobIn, Bool.decide_and, Bool.beq_eq_decide_eq]

/-- INSERT_BOOK and TURN_PAGE of one station follow its jobs, and nothing else differs. -/
theorem syncJobs_does (s : State) (st : Station) :
    JobsShown st s (s.syncJobs st) ∧ KeepsLine s (s.syncJobs st) ∧ s.syncJobs st = { s with slc := (s.syncJobs st).slc } := by
  have first := s.setIndicator_does st .insertBook (s.hasJobIn st .started)
  have second := (s.setIndicator st .insertBook (s.hasJobIn st .started)).setIndicator_does st .turnPage (s.hasJobIn st .pageTurn)
  have same : (s.setIndicator st .insertBook (s.hasJobIn st .started)).signOn? st = s.signOn? st := by
    simp [signOn?, presence, station]
  refine ⟨⟨fun signed => ⟨?_, ?_⟩, first.2.1.trans second.2.1,
    setIndicator_follows_on (s.setIndicator_follows st .insertBook _) first.2.1 .turnPage _ (by decide)⟩, first.1.trans second.1, ?_⟩
  · have signed' : (s.signOn? st).isSome = true := by simpa [signOn?, presence, station] using signed
    rw [syncJobs, second.2.1.2 .insertBook (by decide), first.2.2 signed', hasJobIn_eq]
    simp
  · have signed' : (s.signOn? st).isSome = true := by simpa [signOn?, presence, station] using signed
    rw [syncJobs, second.2.2 (same ▸ signed'), hasJobIn_eq]
    simp
  · rw [syncJobs, setIndicator_slc, setIndicator_slc s]

/-! ### The pick (R107, R118, R119, R130) -/

theorem setJob_jobs (s : State) (j : Job) : (s.setJob j).pjq.jobs = jobsWith j s := by
  simp [setJob, setJobs, jobsWith]

theorem pickOne_turn (s : State) (p : Printer) : PickTurn p s (s.pickOne p) := by
  refine ⟨fun nothing => ?_, fun older newer j ready table queued serves passed => ?_⟩
  · unfold pickOne
    split
    · split
      · rename_i ready _ _ found
        have := List.find?_some found
        simp only [Bool.and_eq_true, beq_iff_eq] at this
        have member := List.mem_of_find?_eq_some found
        rcases nothing with off | none'
        · simp_all
        · exact absurd ((none' _ member this.1).symm.trans this.2) (by decide)
      · rfl
    · rfl
  · have found : (s.pjq.jobs.find? fun k => k.state == .queued && s.mayServe p k) = some j := by
      rw [table, List.find?_append]
      have skip : (older.find? fun k => k.state == .queued && s.mayServe p k) = none := by
        rw [List.find?_eq_none]
        intro k member
        by_cases h : k.state = .queued
        · simp [h, passed k member h]
        · simp [h]
      simp [skip, queued, serves]
    have runs : s.pickOne p = s.startJob p j := by simp [pickOne, ready, found]
    rw [runs, startJob]
    dsimp only
    generalize start : ((s.setPrinter p { s.printer p with bound := some j.id, wrongBooks := 0, device := .waitingBook }).setJob
      { j with state := .started, printer := some p, wait := some Config.bookWait }).emitTo p (.showInsert j.book) = v
    have built : v = { s with
        sent := s.sent ++ [.printer p (.showInsert j.book)], prc := v.prc
        pjq := { s.pjq with jobs := jobsWith { j with state := .started, printer := some p, wait := some 180 } s } } := by
      subst start
      rw [← setJob_jobs]
      rfl
    have line : v.slc = s.slc := by rw [built]
    have printers : ∀ x : Printer, v.printer x = if x = p
        then { s.printer p with bound := some j.id, wrongBooks := 0, device := .waitingBook } else s.printer x := by
      intro x
      rw [← printer_setPrinter s p x]
      subst start
      rfl
    obtain ⟨shows, keeps, rest⟩ := v.syncJobs_does j.station
    have at' : ∀ x : Printer, (v.syncJobs j.station).printer x = v.printer x := fun x => by
      simp only [printer, syncJobs_frame]
    refine ⟨by rw [at', printers, if_pos rfl], fun x away => by rw [at', printers, if_neg away], ?_, ?_, ?_⟩
    · simpa only [JobsShown, OnlyIndicators, SlotsFollow, Repainted, State.line, line] using shows
    · simpa only [KeepsLine, State.line, line] using keeps
    · generalize v.syncJobs j.station = u at rest
      rw [rest, built]

theorem pickPass_eq (s : State) : s.pickPass = (((s.pickOne 0).pickOne 1).pickOne 2).pickOne 3 := by
  have all : List.finRange 4 = [0, 1, 2, 3] := by decide
  rw [pickPass, all]
  simp only [List.foldl_cons, List.foldl_nil]

theorem pickPass_passed (s : State) : PickPassed s s.pickPass := by
  rw [pickPass_eq]
  exact ⟨_, _, _, pickOne_turn s 0, pickOne_turn _ 1, pickOne_turn _ 2, pickOne_turn _ 3⟩

/-! ### The end of a job (R140) -/


theorem entry?_setEntry (s : State) (q n : Nat) (f : Entry → Entry) (keeps : ∀ e : Entry, (f e).seq = e.seq) :
    (s.setEntry q f).entry? n = if q = n then (s.entry? n).map f else s.entry? n := by
  have same : ((fun e : Entry => e.seq == n) ∘ fun e => if e.seq == q then f e else e) = fun e => e.seq == n := by
    funext e
    simp only [Function.comp]
    split <;> simp [keeps]
  simp only [entry?, setEntry, List.find?_map, same]
  cases found : s.dju.journal.find? fun e => e.seq == n with
  | none => split <;> rfl
  | some e =>
    have seq : e.seq = n := by simpa using List.find?_some found
    by_cases h : q = n
    · simp [h, seq]
    · simp [h, seq, Ne.symm h]

/-- The entry of a posting that is freed. -/
def freed (e : Entry) : Entry := { e with passbook := if e.passbook = .pending then .none else e.passbook }

theorem freed_freed (e : Entry) : freed (freed e) = freed e := by
  unfold freed
  split <;> simp_all

theorem freePassbook_eq (s : State) (q : Nat) : s.freePassbook q = s.setEntry q freed := by
  unfold freePassbook
  congr 1
  funext e
  unfold freed
  split <;> simp_all

theorem OnlyPassbooks.freePassbook {s u : State} (q : Nat) (only : OnlyPassbooks s u) : OnlyPassbooks s (u.freePassbook q) := by
  rw [freePassbook_eq]
  refine ⟨?_, ?_⟩
  · simp only [setEntry]
    rw [only.1]
  · rw [← only.2]
    simp only [setEntry, List.map_map]
    refine List.map_congr_left fun e _ => ?_
    simp only [Function.comp, freed]
    split <;> rfl

/-- The line waits to be printed and names posting `n`. -/
abbrev WaitsFor (n : Nat) (l : JobLine) : Prop := l.state = .waiting ∧ l.posting.map (·.seq) = some n

/-- The postings named by the lines that wait go from PENDING back to NONE, and no other entry changes. -/
theorem freePostings_does (ls : List JobLine) : ∀ s : State, OnlyPassbooks s (s.freePostings ls) ∧ ∀ n : Nat,
    (s.freePostings ls).entry? n = if ∃ l ∈ ls, WaitsFor n l then (s.entry? n).map freed else s.entry? n := by
  induction ls with
  | nil => exact fun s => ⟨⟨rfl, rfl⟩, fun n => (if_neg (by simp)).symm⟩
  | cons l ls rest =>
    intro s
    have twice : ∀ o : Option Entry, (o.map freed).map freed = o.map freed := fun o => by
      cases o <;> simp [freed_freed]
    by_cases waits : ∃ n, WaitsFor n l
    · obtain ⟨n, waiting, named⟩ := waits
      obtain ⟨q, posting, seq⟩ := Option.map_eq_some_iff.mp named
      have first : s.freePostings (l :: ls) = (s.freePassbook n).freePostings ls := by
        simp only [freePostings, List.foldl_cons, waiting, posting, seq]
      obtain ⟨only, entries⟩ := rest (s.freePassbook n)
      have base : OnlyPassbooks s (s.freePassbook n) := OnlyPassbooks.freePassbook n ⟨rfl, rfl⟩
      refine ⟨?_, fun m => ?_⟩
      · rw [first]
        exact ⟨by rw [only.1, base.1], only.2.trans base.2⟩
      · rw [first, entries, freePassbook_eq, entry?_setEntry s n m freed fun _ => rfl]
        by_cases here : n = m
        · subst here
          have some' : ∃ x ∈ l :: ls, WaitsFor n x := ⟨l, List.mem_cons_self, waiting, named⟩
          rw [if_pos rfl, if_pos some', twice, ite_self]
        · have out : ¬ WaitsFor m l := fun h => here (Option.some.inj (named.symm.trans h.2))
          rw [if_neg here]
          simp [out]
    · have first : s.freePostings (l :: ls) = s.freePostings ls := by
        simp only [freePostings, List.foldl_cons]
        cases state : l.state <;> cases posting : l.posting <;> try rfl
        exact absurd ⟨_, state, by rw [posting]; rfl⟩ waits
      have out : ∀ n, ¬ WaitsFor n l := fun n h => waits ⟨n, h⟩
      rw [first]
      obtain ⟨only, entries⟩ := rest s
      refine ⟨only, fun n => ?_⟩
      rw [entries]
      simp [out]

/-- Of the lines as a job's end leaves them, with the one SENT back in WAITING. -/
theorem freePostings_frees (s : State) (ls : List JobLine) : FreesPostings ls s (s.freePostings (ls.map JobLine.unsent)) := by
  obtain ⟨only, entries⟩ := freePostings_does (ls.map JobLine.unsent) s
  have waits : ∀ (n : Nat) (l : JobLine), WaitsFor n l.unsent ↔
      (l.state = .waiting ∨ l.state = .sent) ∧ l.posting.map (·.seq) = some n := by
    intro n l
    cases state : l.state <;> simp [WaitsFor, JobLine.unsent, state]
  refine ⟨only, fun l q e member left named held => ?_, fun n none' => ?_⟩
  · have some' : ∃ x ∈ ls.map JobLine.unsent, WaitsFor q.seq x :=
      ⟨l.unsent, List.mem_map_of_mem member, (waits q.seq l).mpr ⟨left, by rw [named]; rfl⟩⟩
    rw [entries, if_pos some', held]
    rfl
  · refine (entries n).trans (if_neg ?_)
    rintro ⟨x, member, waiting⟩
    obtain ⟨l, inside, rfl⟩ := List.mem_map.mp member
    obtain ⟨left, named⟩ := (waits n l).mp waiting
    obtain ⟨q, posting, seq⟩ := Option.map_eq_some_iff.mp named
    exact none' l inside left q posting seq

theorem raise_keeps (s : State) (n : Notice) : KeepsLink s (s.raise n) ∧ s.raise n = { s with hlc := (s.raise n).hlc } ∧
    (s.hlc.notices.length < 32 → (s.raise n).hlc.notices = s.hlc.notices ++ [⟨s.now, n⟩]) := by
  have capacity : Config.noticeCapacity = 32 := rfl
  unfold raise
  rw [capacity]
  split
  · exact ⟨rfl, rfl, fun _ => rfl⟩
  · exact ⟨rfl, rfl, fun room => absurd room ‹_›⟩

theorem raise_raises (s : State) (n : Notice) : RaisesNotice ⟨s.now, n⟩ s (s.raise n) := by
  have capacity : Config.noticeCapacity = 32 := rfl
  unfold raise
  rw [capacity]
  split
  · exact ⟨fun _ => rfl, fun full => by omega⟩
  · exact ⟨fun room => absurd room ‹_›, fun _ => rfl⟩

theorem freePostings_dju (s : State) (ls : List JobLine) : s.freePostings ls = { s with dju := (s.freePostings ls).dju } := by
  have keeps := foldl_keeps (fun (s : State) (l : JobLine) => match l.state, l.posting with
    | .waiting, some q => s.freePassbook q.seq
    | _, _ => s) (fun v : State => { v with dju := (s.freePostings ls).dju })
    (fun v l => by cases l.state <;> cases l.posting <;> rfl) ls s
  exact keeps

theorem unbind_prc (s : State) (p : Option Printer) : s.unbind p = { s with prc := (s.unbind p).prc } := by
  cases p <;> rfl

/-- The record, the notice, the postings and the indicators of a job's end; the printer is unbound beside them. -/
theorem closeJob_closes (s : State) (j : Job) (st : JobState) (why : Reason) : JobCloses j st why s (s.closeJob j st why) := by
  generalize notice : Notice.jobEnded j.id j.station st why j.printed j.printer j.place = n
  obtain ⟨a, first⟩ : ∃ a, a = s.setJob (j.ended st why) := ⟨_, rfl⟩
  obtain ⟨b, second⟩ : ∃ b, b = a.freePostings (j.lines.map JobLine.unsent) := ⟨_, rfl⟩
  obtain ⟨c, third⟩ : ∃ c, c = b.syncJobs j.station := ⟨_, rfl⟩
  obtain ⟨d, fourth⟩ : ∃ d, d = c.raise n := ⟨_, rfl⟩
  have whole : s.closeJob j st why = d.unbind j.printer := by
    subst fourth third second first notice
    rfl
  have table : a = { s with pjq := { s.pjq with jobs := jobsWith (j.ended st why) s } } := by
    subst first
    rw [← setJob_jobs]
    rfl
  have frees : FreesPostings j.lines a b := second ▸ freePostings_frees a j.lines
  have only : b = { a with dju := b.dju } := second ▸ freePostings_dju a _
  obtain ⟨shows, keeps, line⟩ := third ▸ b.syncJobs_does j.station
  have queue : d = { c with hlc := d.hlc } := fourth ▸ (c.raise_keeps n).2.1
  have raised := fourth ▸ c.raise_raises n
  obtain ⟨u, last⟩ : ∃ u, u = d.unbind j.printer := ⟨_, rfl⟩
  have printers : u = { d with prc := u.prc } := last ▸ d.unbind_prc j.printer
  rw [whole, ← last]
  have dju : u.dju = b.dju := by rw [printers, queue, line]
  have slc : u.slc = c.slc := by rw [printers, queue]
  have stu : u.stu = c.stu := by rw [printers, queue]
  have pjq : u.pjq = c.pjq := by rw [printers, queue]
  have hlc : u.hlc = d.hlc := by rw [printers]
  have old : b.slc = s.slc := by rw [only, table]
  have before : c.hlc = s.hlc := by rw [line, only, table]
  refine ⟨?_, ?_, ?_, ?_, ?_⟩
  · simpa only [FreesPostings, OnlyPassbooks, entry?, dju, show a.dju = s.dju by rw [table]] using frees
  · simpa only [JobsShown, ShowsJobs, OnlyIndicators, SlotsFollow, Repainted, signOn?, presence, station, State.line, slc, stu,
      pjq, old] using shows
  · simpa only [KeepsLine, State.line, slc, old] using keeps
  · rw [notice, show s.now = c.now by simp only [now, before]]
    simpa only [RaisesNotice, hlc, before] using raised
  · rw [printers, queue, line, only, table]

theorem closeJob_printer (s : State) (j : Job) (st : JobState) (why : Reason) (x : Printer) :
    (s.closeJob j st why).printer x = if j.printer = some x
      then { s.printer x with
        bound := none, wrongBooks := 0, device := if (s.printer x).device.working then .idle else (s.printer x).device }
      else s.printer x := by
  cases bound : j.printer with
  | none => simp [closeJob, unbind, bound, printer]
  | some p =>
    have same : ∀ v : State, v.prc = s.prc → (v.unbind (some p)).printer x = if some p = some x
        then { s.printer x with
          bound := none, wrongBooks := 0, device := if (s.printer x).device.working then .idle else (s.printer x).device }
        else s.printer x := by
      intro v prc
      have at' : ∀ y : Printer, v.printer y = s.printer y := fun y => by simp only [printer, prc]
      by_cases h : x = p
      · subst h
        simp [unbind, at']
      · simp [unbind, printer_setPrinter, at', h, Ne.symm h]
    rw [closeJob, bound]
    exact same _ (by simp)

/-- The end of a job at a working printer, after the messages `out` to it. -/
theorem endJob_ends (v : State) (p : Printer) (k : Job) (st : JobState) (why : Reason) (out : List PrinterMessage)
    (bound : k.printer = some p) (works : (v.printer p).device.working = true) :
    EndsAt p k st why out v ({ v with sent := v.sent ++ out.map (Sent.printer p) }.endJob k st why) := by
  obtain ⟨w, sent⟩ : ∃ w : State, w = { v with sent := v.sent ++ out.map (Sent.printer p) } := ⟨_, rfl⟩
  have at' : ∀ x : Printer, w.printer x = v.printer x := fun x => by rw [sent]; rfl
  have printers := w.closeJob_printer k st why
  have here : (w.closeJob k st why).printer p = { v.printer p with bound := none, device := .idle, wrongBooks := 0 } := by
    rw [printers, if_pos bound, at', if_pos works]
  refine ⟨w.closeJob k st why, ?_, fun x away => ?_, here, ?_⟩
  · rw [← sent]
    exact w.closeJob_closes k st why
  · rw [printers, if_neg fun h => away (Option.some.inj (h.symm.trans bound)), at']
  · rw [← sent, endJob, bound]
    dsimp only
    rw [here]
    exact pickPass_passed _

/-! ### What a reply carries (R87, R93, R203) -/

theorem takeEntry_takes (w : State) (st : Station) (k : InputKind) (bit : Bool) (t : Text) :
    ((w.line st).lastBit = some bit → (w.takeEntry st k bit t).line st = { w.line st with answer := .taken bit } ∧
      (w.takeEntry st k bit t).hlc = w.hlc) ∧
    ((w.line st).lastBit ≠ some bit → (w.line st).input.length < 16 →
      (w.takeEntry st k bit t).line st = { w.line st with
        input := (w.line st).input ++ [⟨k, t, w.now⟩], answer := .taken bit, lastBit := some bit } ∧
      ((w.line st).input ≠ [] → (w.takeEntry st k bit t).hlc = w.hlc) ∧
      ((w.line st).input = [] → RaisesNotice ⟨w.now, .inputReady st⟩ w (w.takeEntry st k bit t))) ∧
    ((w.line st).lastBit ≠ some bit → 16 ≤ (w.line st).input.length →
      (w.takeEntry st k bit t).line st = { w.line st with answer := .notTaken bit } ∧
      (w.takeEntry st k bit t).hlc = w.hlc) ∧
    (∀ x : Station, x ≠ st → (w.takeEntry st k bit t).line x = w.line x) ∧
    w.takeEntry st k bit t = { w with
      slc := { w.slc with lines := (w.takeEntry st k bit t).slc.lines }, hlc := (w.takeEntry st k bit t).hlc } := by
  have capacity : Config.inputCapacity = 16 := rfl
  by_cases again : (w.line st).lastBit = some bit
  · have taken : w.takeEntry st k bit t = w.setLine st { w.line st with answer := .taken bit } := if_pos again
    rw [taken]
    exact ⟨fun _ => ⟨line_setLine_same .., rfl⟩, fun new => absurd again new, fun new => absurd again new,
      fun x other => (line_setLine ..).trans (if_neg other), rfl⟩
  by_cases room : (w.line st).input.length < 16
  · have stored : w.takeEntry st k bit t = (if (w.line st).input.isEmpty then
        (w.setLine st { w.line st with input := (w.line st).input ++ [⟨k, t, w.now⟩], lastBit := some bit, answer := .taken bit }).raise
          (.inputReady st)
      else w.setLine st { w.line st with
        input := (w.line st).input ++ [⟨k, t, w.now⟩], lastBit := some bit, answer := .taken bit }) := by
      unfold takeEntry
      rw [capacity, if_neg again, if_pos room]
    rw [stored]
    split
    · have empty := List.isEmpty_iff.mp ‹_›
      obtain ⟨_, only, _⟩ := raise_keeps (w.setLine st { w.line st with
        input := (w.line st).input ++ [⟨k, t, w.now⟩], lastBit := some bit, answer := .taken bit }) (.inputReady st)
      rw [only]
      exact ⟨fun old => absurd old again, fun _ _ => ⟨line_setLine_same .., fun some' => absurd empty some',
          fun _ => raise_raises (w.setLine st { w.line st with
            input := (w.line st).input ++ [⟨k, t, w.now⟩], lastBit := some bit, answer := .taken bit }) (.inputReady st)⟩,
        fun _ full => absurd room (Nat.not_lt.mpr full), fun x other => (line_setLine ..).trans (if_neg other), rfl⟩
    · exact ⟨fun old => absurd old again, fun _ _ => ⟨line_setLine_same .., fun _ => rfl,
          fun empty => absurd (List.isEmpty_iff.mpr empty) ‹_›⟩,
        fun _ full => absurd room (Nat.not_lt.mpr full), fun x other => (line_setLine ..).trans (if_neg other), rfl⟩
  · have refused : w.takeEntry st k bit t = w.setLine st { w.line st with answer := .notTaken bit } := by
      unfold takeEntry
      rw [capacity, if_neg again, if_neg room]
    rw [refused]
    exact ⟨fun old => absurd old again, fun _ free => absurd free room, fun _ _ => ⟨line_setLine_same .., rfl⟩,
      fun x other => (line_setLine ..).trans (if_neg other), rfl⟩

theorem handleContent_takes (w : State) (st : Station) (c : ReplyContent) : TakesContent c st w (w.handleContent st c) := by
  have noEntry (without : w.handleContent st c = w.setLine st { w.line st with answer := .none })
      (none' : ∀ (n : Nat) (bit : Bool) (t : Text), c = .entry n bit t → n ≠ 1 ∧ n ≠ 2) :
      TakesContent c st w (w.handleContent st c) := by
    rw [without]
    refine ⟨fun _ => ⟨line_setLine_same .., rfl⟩, fun n k bit t is kind => ?_,
      fun x other => (line_setLine ..).trans (if_neg other), rfl⟩
    obtain ⟨not1, not2⟩ := none' n bit t is
    rcases kind with ⟨one, _⟩ | ⟨two, _⟩
    · exact absurd one not1
    · exact absurd two not2
  have entry (n : Nat) (k : InputKind) (bit : Bool) (t : Text) (is : c = .entry n bit t)
      (kind : n = 1 ∧ k = .key ∨ n = 2 ∧ k = .field)
      (taken : w.handleContent st c = if (w.line st).test.running then w else w.takeEntry st k bit t) :
      TakesContent c st w (w.handleContent st c) := by
    obtain ⟨again, stored, full, others, only⟩ := takeEntry_takes w st k bit t
    rw [taken]
    refine ⟨fun none' => ?_, fun n' k' bit' t' is' kind' => ?_, fun x other => ?_, ?_⟩
    · obtain ⟨not1, not2⟩ := none' n bit t is
      rcases kind with ⟨one, _⟩ | ⟨two, _⟩
      · exact absurd one not1
      · exact absurd two not2
    · rw [is] at is'
      cases is'
      have same : k' = k := by
        rcases kind with ⟨rfl, rfl⟩ | ⟨rfl, rfl⟩ <;> rcases kind' with ⟨at', rfl⟩ | ⟨at', rfl⟩
        · rfl
        · exact absurd at' (by decide)
        · exact absurd at' (by decide)
        · rfl
      rw [same]
      refine ⟨fun running => if_pos running, fun stopped => ?_⟩
      rw [if_neg (by rw [stopped]; decide)]
      exact ⟨again, stored, full⟩
    · split
      · rfl
      · exact others x other
    · split
      · rfl
      · exact only
  match c, noEntry, entry with
  | .nothing, noEntry, _ => exact noEntry rfl fun _ _ _ is => nomatch is
  | .echo _, noEntry, _ => exact noEntry rfl fun _ _ _ is => nomatch is
  | .entry 0 bit t, noEntry, _ => exact noEntry rfl fun _ _ _ is => by cases is; decide
  | .entry 1 bit t, _, entry => exact entry 1 .key bit t rfl (.inl ⟨rfl, rfl⟩) rfl
  | .entry 2 bit t, _, entry => exact entry 2 .field bit t rfl (.inr ⟨rfl, rfl⟩) rfl
  | .entry (n + 3) bit t, noEntry, _ => exact noEntry rfl fun _ _ _ is => by cases is; exact ⟨by omega, by omega⟩

/-! ### The next slot (R83 to R87) -/

theorem scanOrder_scans (first last : Station) : ScanOrder first last (scanOrder first last) := by
  have member : ∀ f l x : Station, x ∈ scanOrder f l ↔ InScan f l x := by decide +kernel
  have order : ∀ f l : Station, (scanOrder f l).Pairwise fun a b => (a.val + 12 - f.val) % 12 < (b.val + 12 - f.val) % 12 := by
    decide +kernel
  exact ⟨member first last, order first last⟩

theorem scanOrder_ne_nil (first last : Station) : scanOrder first last ≠ [] := by
  have all : ∀ f l : Station, scanOrder f l ≠ [] := by decide +kernel
  exact all first last

theorem served_iff (s : State) (st : Station) : s.served st = true ↔ (s.presence st = .vacant → s.slc.round = 0) := by
  cases at' : s.presence st <;> simp [served, at']

/-- What the head of a walk that the round serves is, and what is passed over before it. -/
theorem servesNext_of (s : State) (st : Station) (rest : List Station)
    (left : (s.slc.walk.dropWhile fun x => !s.served x) = st :: rest) : ServesNext s s.slc.round s.slc.walk st rest := by
  refine ⟨s.slc.walk.takeWhile fun x => !s.served x, ?_, fun x member => ?_, ?_⟩
  · rw [← left, List.takeWhile_append_dropWhile]
  · have passed := (List.all_eq_true.mp (List.all_takeWhile (p := fun x => !s.served x) (l := s.slc.walk))) x member
    have not := mt (served_iff s x).mpr (by simpa using passed)
    exact Classical.not_imp.mp not
  · have here := List.head?_dropWhile_not (fun x => !s.served x) s.slc.walk
    rw [left] at here
    exact (served_iff s st).mp (by simpa using here)

theorem passed_of (s : State) (none' : (s.slc.walk.dropWhile fun x => !s.served x) = []) :
    ∀ x ∈ s.slc.walk, s.presence x = .vacant ∧ s.slc.round ≠ 0 := fun x member => by
  have whole := List.takeWhile_append_dropWhile (p := fun x => !s.served x) (l := s.slc.walk)
  rw [none', List.append_nil] at whole
  have passed := (List.all_eq_true.mp (List.all_takeWhile (p := fun x => !s.served x) (l := s.slc.walk))) x (whole.symm ▸ member)
  exact Classical.not_imp.mp (mt (served_iff s x).mpr (by simpa using passed))

/-- The rounds that serve no station are passed over until one serves the next; the round counted 0 serves every station, so that
one comes while `n` counts at least the rounds to it. -/
theorem nextSlot_walks (n : Nat) : ∀ v : State, v.slc.walk = scanOrder v.slc.first v.slc.last → v.slc.round < 8 →
    (8 - v.slc.round) % 8 < n → ∃ (k : Nat) (st : Station) (rest : List Station),
      (∀ i : Nat, i < k → ∀ x ∈ v.slc.walk, v.presence x = .vacant ∧ (v.slc.round + i) % 8 ≠ 0) ∧
      ServesNext v ((v.slc.round + k) % 8) v.slc.walk st rest ∧
      nextSlot n v = { v with slc := { v.slc with walk := rest, round := (v.slc.round + k) % 8 } }.beginSlot st := by
  induction n with
  | zero => exact fun v _ _ far => absurd far (Nat.not_lt_zero _)
  | succ n step =>
    intro v walk small far
    have stay : (v.slc.round + 0) % 8 = v.slc.round := Nat.mod_eq_of_lt small
    cases left : v.slc.walk.dropWhile fun x => !v.served x with
    | cons st rest =>
      refine ⟨0, st, rest, fun i less => absurd less (Nat.not_lt_zero i), ?_, ?_⟩
      · rw [stay]
        exact servesNext_of v st rest left
      · rw [stay, nextSlot, left]
    | nil =>
      have passed := passed_of v left
      have round : v.slc.round ≠ 0 := by
        obtain ⟨x, rest, full⟩ := List.exists_cons_of_ne_nil (scanOrder_ne_nil v.slc.first v.slc.last)
        exact (passed x (by rw [walk, full]; exact List.mem_cons_self)).2
      obtain ⟨w, made⟩ : ∃ w : State, w = { v with slc := { v.slc with
        walk := scanOrder v.slc.first v.slc.last, round := (v.slc.round + 1) % 8 } } := ⟨_, rfl⟩
      have presence : ∀ x : Station, w.presence x = v.presence x := fun x => by rw [made]; rfl
      have counter : w.slc.round = (v.slc.round + 1) % 8 := by rw [made]
      have range : w.slc.walk = v.slc.walk := by rw [made, walk]
      obtain ⟨k, st, rest, skipped, serves, out⟩ := step w (by rw [made]) (by rw [counter]; omega) (by rw [counter]; omega)
      refine ⟨k + 1, st, rest, fun i less x member => ?_, ?_, ?_⟩
      · cases i with
        | zero => exact ⟨(passed x member).1, by omega⟩
        | succ i =>
          have later := skipped i (by omega) x (range ▸ member)
          rw [presence, counter] at later
          exact ⟨later.1, by omega⟩
      · rw [show (v.slc.round + (k + 1)) % 8 = (w.slc.round + k) % 8 by omega]
        simpa only [ServesNext, presence, range] using serves
      · rw [nextSlot, left, show (v.slc.round + (k + 1)) % 8 = (w.slc.round + k) % 8 by omega]
        dsimp only
        rw [← made, out, made]

/-- The frame that a slot sends, and what it leaves of the station's line. -/
theorem beginSlot_does (s : State) (st : Station) : ∃ test : LineTest, FrameFor s st (s.chooseBody st) test ∧
    (s.beginSlot st).slc.slot = some {
      station := st, body := s.chooseBody st, refilled := false, dropped := false, stale := false } ∧
    (s.beginSlot st).line st = { s.line st with test := test } ∧
    (∀ x : Station, x ≠ st → (s.beginSlot st).line x = s.line x) ∧
    s.beginSlot st = { s with
      sent := s.sent ++ [.screen st (s.chooseBody st) (s.line st).answer]
      slc := { s.slc with lines := (s.beginSlot st).slc.lines, slot := (s.beginSlot st).slc.slot } } := by
  by_cases testing : s.countedPresent st = true ∧ (s.line st).test.running = true
  · have body : s.chooseBody st = .test (patternChars 16 (s.line st).test.generator).2 := by
      simp [chooseBody, testing]
    have length : ∀ (n : Nat) (g : BitVec 15), (patternChars n g).2.length = n := by
      intro n
      induction n with
      | zero => exact fun _ => rfl
      | succ n step => exact fun g => by simp [patternChars, step]
    obtain ⟨l, made⟩ : ∃ l : LineRec, l = { s.line st with test := { (s.line st).test with
      generator := (patternChars 16 (s.line st).test.generator).1 } } := ⟨_, rfl⟩
    have begun : s.beginSlot st = { s with
        sent := s.sent ++ [.screen st (s.chooseBody st) (s.line st).answer]
        slc := { (s.setLine st l).slc with slot := some {
          station := st, body := s.chooseBody st, refilled := false, dropped := false, stale := false } } } := by
      rw [made]
      simp only [beginSlot, body]
      rfl
    have lines : ∀ x : Station, (s.beginSlot st).line x = if x = st then l else s.line x := fun x => by
      rw [begun]
      exact line_setLine s st x l
    refine ⟨l.test, ⟨fun _ => ⟨_, body, length 16 _, ?_, ?_⟩, fun h => absurd testing h, fun _ h => ?_, fun h => ?_⟩, ?_, ?_, ?_, ?_⟩
    · rw [made]
    · rw [made]
    · rw [testing.2] at h
      cases h
    · rw [testing.1] at h
      cases h
    · rw [begun]
    · rw [lines, if_pos rfl, made]
    · exact fun x away => by rw [lines, if_neg away]
    · rw [begun]
      rfl
  · have body : ∀ chars, s.chooseBody st ≠ .test chars := by
      intro chars
      unfold chooseBody
      dsimp only
      split
      · rw [if_neg fun h => testing ⟨‹_›, h⟩]
        split <;> simp
      · simp
    have begun : s.beginSlot st = { s with
        sent := s.sent ++ [.screen st (s.chooseBody st) (s.line st).answer]
        slc := { s.slc with slot := some {
          station := st, body := s.chooseBody st, refilled := false, dropped := false, stale := false } } } := by
      unfold beginSlot
      dsimp only
      split
      · exact absurd ‹_› (body _)
      · rfl
    refine ⟨(s.line st).test, ⟨fun h => absurd h testing, fun _ => rfl, fun here still => ⟨fun set at' => ?_, fun empty x later
      at' => ?_, fun empty at' => ?_⟩, fun away => ?_⟩, ?_, ?_, fun x _ => ?_, ?_⟩
    · simp [chooseBody, here, still, at']
    · simp [chooseBody, here, still, empty, at']
    · simp [chooseBody, here, still, empty, at']
    · simp [chooseBody, away]
    · rw [begun]
    · rw [begun]
      rfl
    · rw [begun]
      rfl
    · rw [begun]

/-- The slot in progress ends and the next begins. -/
theorem endSlot_begins (v : State) : SlotBegins v v.endSlot := by
  have made : ∃ (st : Station) (rest : List Station) (round : Nat),
      (round = v.slc.round ∧ ServesNext v v.slc.round v.slc.walk st rest ∨
        (∀ x ∈ v.slc.walk, v.presence x = .vacant ∧ v.slc.round ≠ 0) ∧
          ∃ (range : List Station) (k : Nat), ScanOrder v.slc.first v.slc.last range ∧
            (∀ i : Nat, i < k → ∀ x ∈ range, v.presence x = .vacant ∧ (v.slc.round + i + 1) % 8 ≠ 0) ∧
            round = (v.slc.round + k + 1) % 8 ∧ ServesNext v round range st rest) ∧
      v.endSlot = { v with slc := { v.slc with walk := rest, round := round } }.beginSlot st := by
    cases left : v.slc.walk.dropWhile fun x => !v.served x with
    | cons st rest =>
      refine ⟨st, rest, v.slc.round, Or.inl ⟨rfl, servesNext_of v st rest left⟩, ?_⟩
      rw [endSlot, nextSlot, left]
    | nil =>
      obtain ⟨w, fresh⟩ : ∃ w : State, w = { v with slc := { v.slc with
        walk := scanOrder v.slc.first v.slc.last, round := (v.slc.round + 1) % 8 } } := ⟨_, rfl⟩
      have presence : ∀ x : Station, w.presence x = v.presence x := fun x => by rw [fresh]; rfl
      have counter : w.slc.round = (v.slc.round + 1) % 8 := by rw [fresh]
      have range : w.slc.walk = scanOrder v.slc.first v.slc.last := by rw [fresh]
      obtain ⟨k, st, rest, skipped, serves, out⟩ := nextSlot_walks 9 w (by rw [fresh]) (by rw [counter]; omega) (by omega)
      have later : ∀ i : Nat, (w.slc.round + i) % 8 = (v.slc.round + i + 1) % 8 := fun i => by omega
      rw [range] at skipped serves
      simp only [ServesNext, later, presence] at skipped serves
      refine ⟨st, rest, (v.slc.round + k + 1) % 8, Or.inr ⟨passed_of v left, _, k, scanOrder_scans _ _, skipped, rfl, serves⟩, ?_⟩
      rw [endSlot, nextSlot, left]
      dsimp only
      rw [← fresh, out, later, fresh]
  obtain ⟨st, rest, round, which, begun⟩ := made
  obtain ⟨w, fresh⟩ : ∃ w : State, w = { v with slc := { v.slc with walk := rest, round := round } } := ⟨_, rfl⟩
  obtain ⟨test, frame, slot, here, others, whole⟩ := w.beginSlot_does st
  rw [← fresh] at begun
  rw [← begun] at slot here others whole
  have walk : v.endSlot.slc.walk = rest := by rw [whole, fresh]
  have counter : v.endSlot.slc.round = round := by rw [whole, fresh]
  have lines : ∀ x : Station, w.line x = v.line x := fun x => by rw [fresh]; rfl
  have counted : ∀ x : Station, w.countedPresent x = v.countedPresent x := fun x => by rw [fresh]; rfl
  rw [lines] at here
  refine ⟨st, w.chooseBody st, test, ?_, slot, ?_, here, fun x away => (others x away).trans (lines x), ?_⟩
  · simpa only [FrameFor, lines, counted] using frame
  · rw [walk, counter]
    exact which
  · rw [walk, counter]
    rw [lines] at whole
    generalize v.endSlot = u at whole
    rw [whole, fresh]

/-! ### The window (R177) -/

/-- The body of a block is that of R169 to R171. -/
theorem bodyOf_is (r : CutRecord) (entries : List Entry) (n : Nat) : BodyIs r entries n (bodyOf r entries n) := by
  intro postings transit last hp ht hl
  have count : blockCount entries.length r.transit.length = last := by
    cases h : r.transit <;> simp_all [blockCount]
  refine ⟨fun first => ?_, fun i low high at' => ?_, fun i low at' => ?_, fun some' at' => ?_, fun at' => ?_⟩
  · simp [bodyOf, first, count]
  · refine ⟨((entries.drop (8 * (n - 2))).take 8).map (Entry.asSent r.day), ?_, ?_, fun k e sent old new => ?_⟩
    · simp only [bodyOf, ← hp]
      rw [if_neg (by omega), if_pos (by omega)]
    · rw [List.length_map, List.length_take, List.length_drop, at']
      omega
    · rw [show 8 * (i - 1) = 8 * (n - 2) by omega] at old
      simp only [List.getElem?_map, List.getElem?_take, List.getElem?_drop] at new
      split at new
      · rw [old] at new
        simp only [Option.map_some, Option.some.injEq] at new
        rw [← new]
        rfl
      · simp at new
  · refine ⟨(r.tills.toList.drop (4 * i)).take 4, ?_, ?_, fun k t _ at'' => ?_⟩
    · simp only [bodyOf, ← hp]
      rw [if_neg (by omega), if_neg (by omega), if_pos (by omega), show 4 * (n - 2 - postings) = 4 * i by omega]
    · simp only [List.length_take, List.length_drop, Vector.length_toList]
      split <;> omega
    · have small : k < 4 := by
        rename_i inside
        simp only [List.length_take] at inside
        omega
      rw [List.getElem?_take, if_pos small, List.getElem?_drop, ← at'']
      simp
  · simp only [bodyOf, ← hp]
    rw [if_neg (by omega), if_neg (by omega), if_neg (by omega), if_pos ⟨by omega, some'⟩]
  · have trailer : bodyOf r entries n = trailerOf r entries := by
      simp only [bodyOf, ← hp]
      rw [if_neg (by omega), if_neg (by omega), if_neg (by omega), if_neg]
      rintro ⟨here, some'⟩
      rw [if_neg some'] at ht
      omega
    refine ⟨sumCounts (r.tills.toList.map (·.counts) ++ r.transit.map fun x => breakdownCounts x.breakdown), trailer.trans ?_,
      fun d => ?_⟩
    · simp only [trailerOf, liveTotal, Bool.decide_and, Bool.beq_eq_decide_eq]
    · have tills : r.tills.toList = (List.finRange 13).map fun t : Till => r.tills[t] := by
        refine List.ext_getElem (by simp) fun k _ _ => ?_
        simp
      simp only [sumCounts, breakdownCounts, tills, List.map_map, List.map_append, List.sum_append, Fin.getElem_fin,
        Vector.getElem_ofFn]
      simp [Function.comp_def]

/-- The part after the blocks of `run` have been handed in `v`, the next-to-send position past the last. -/
def handed (v : State) (n : Nat) (run : List Nat) : State :=
  { v with
    sent := v.sent ++ run.filterMap fun k => (v.buildBlock k).map Sent.block
    hos := { v.hos with
      window := v.hos.window ++ (run.filter fun k => v.hos.window.all fun w => w.1 ≠ k).map fun k => (k, 0)
      next := some (n + run.length)
      ackTimer := if run = [] then v.hos.ackTimer else some (v.hos.ackTimer.getD 20) } }

theorem handBlock_eq (v : State) (n : Nat) : v.handBlock n = v.handed n [n] := by
  have flip : (v.hos.window.any fun w => w.1 == n) = !v.hos.window.all fun w => decide (w.1 ≠ n) := by
    simp [List.any_eq_not_all_not, Bool.beq_eq_decide_eq]
  cases built : v.buildBlock n <;> cases stands : (v.hos.window.all fun w => decide (w.1 ≠ n)) <;>
    simp only [handBlock, handed, setHos, emit, Config.ackTime, flip, stands, built, List.filter_cons, List.filter_nil,
      List.filterMap_cons, List.filterMap_nil, Option.map_none, Option.map_some, List.map_cons, List.map_nil, List.append_nil,
      List.length_singleton, if_true, if_false, Bool.not_true, Bool.not_false, Bool.false_eq_true, reduceCtorEq]

/-- Handing one block and then a run of later ones is handing them all. -/
theorem handed_cons (v : State) (n : Nat) (run : List Nat) (later : ∀ k ∈ run, k ≠ n) :
    (v.handed n [n]).handed (n + 1) run = v.handed n (n :: run) := by
  have blocks : ∀ k, (v.handed n [n]).buildBlock k = v.buildBlock k := fun _ => rfl
  have kept : (run.filter fun k => (v.handed n [n]).hos.window.all fun w => w.1 ≠ k) =
      run.filter fun k => v.hos.window.all fun w => w.1 ≠ k := by
    refine List.filter_congr fun k member => ?_
    have away : n ≠ k := fun h => later k member h.symm
    by_cases stands : (v.hos.window.all fun w => decide (w.1 ≠ n)) = true <;>
      simp [handed, List.filter_cons, List.all_append, away]
  rw [handed, kept]
  simp only [blocks]
  simp [handed, List.filter_cons, List.filterMap_cons, Nat.add_comm, Nat.add_left_comm]
  constructor
  · cases v.buildBlock n <;> simp
  · split <;> simp

/-- The blocks that R177 allows from the next-to-send position `n` are handed, where `k` are enough for all of them. -/
theorem handBlocks_eq (b : Batch) (k : Nat) : ∀ (n : Nat) (v : State), v.hos.state = .sending → v.hos.batch = some b →
    v.hos.next = some n → min (b.blocks + 1) (b.oldest + 4) - n ≤ k →
    v.handBlocks k = v.handed n (List.range' n (min (b.blocks + 1) (b.oldest + 4) - n)) := by
  induction k with
  | zero =>
    intro n v _ _ next few
    rw [Nat.le_zero.mp few]
    simp [handBlocks, handed, ← next]
  | succ k step =>
    intro n v sending batch next few
    have four : Config.windowSize = 4 := rfl
    rw [handBlocks, sending, batch, next]
    dsimp only
    rw [four]
    by_cases more : n ≤ b.blocks ∧ n < b.oldest + 4
    · rw [if_pos more, handBlock_eq, step (n + 1) (v.handed n [n]) sending batch rfl (by omega),
        show min (b.blocks + 1) (b.oldest + 4) - n = min (b.blocks + 1) (b.oldest + 4) - (n + 1) + 1 by omega, List.range'_succ]
      refine handed_cons v n _ fun k member => ?_
      rw [List.mem_range'_1] at member
      omega
    · rw [if_neg more, show min (b.blocks + 1) (b.oldest + 4) - n = 0 by omega]
      simp [handed, ← next]

theorem handed_hands (v : State) (b : Batch) (n : Nat) :
    Hands b n v (v.handed n (List.range' n (min (b.blocks + 1) (b.oldest + 4) - n))) := by
  generalize range : List.range' n (min (b.blocks + 1) (b.oldest + 4) - n) = run
  refine ⟨run, run.filterMap v.buildBlock, range.symm, fun r d record day => ?_, fun none' => ?_, ?_⟩
  · have built : run.filterMap v.buildBlock = run.map fun k =>
        { branch := d.branch, day := r.day, number := k, body := bodyOf r (v.dayEntries r.day) k } := by
      rw [← List.filterMap_eq_map]
      congr 1
      funext k
      simp only [buildBlock, record, day, Function.comp]
    refine ⟨by rw [built, List.map_map]; exact List.map_id'' (fun _ => rfl) run, fun k member => ?_⟩
    rw [built, List.mem_map] at member
    obtain ⟨m, _, rfl⟩ := member
    refine ⟨rfl, rfl, ?_⟩
    simpa only [dayEntries, Bool.beq_eq_decide_eq] using bodyOf_is r (v.dayEntries r.day) m
  · have nothing : ∀ k, v.buildBlock k = none := fun k => by
      unfold buildBlock
      rcases none' with h | h <;> rw [h] <;> cases v.dju.cutRecord <;> rfl
    rw [List.filterMap_eq_nil_iff]
    exact fun k _ => nothing k
  · rw [handed, List.map_filterMap]

theorem hand_hands (b : Batch) (n : Nat) (v : State) (sending : v.hos.state = .sending) (batch : v.hos.batch = some b)
    (next : v.hos.next = some n) (reached : b.oldest ≤ n) : Hands b n v v.hand := by
  have whole : v.hand = _ := handBlocks_eq b 4 n v sending batch next (by omega)
  exact whole ▸ v.handed_hands b n

end State

end Sys2Proof.Machine
end

