-- ==== Sys2Proof/Laws/Requests.lean ====
section
/-! SUPPORT. How a request or an event comes to its outcome, and how the checks of a request are taken apart. -/

namespace Sys2Proof.Machine

open Sys2Proof

/-! ### The outcome of a request -/

section Requests

variable {α : Type} {type : Nat} {r : Req α} {s t : State} {f : α → State → Answer} {a : α} {e : Status} {items : List Item}
  {refused : α → State → Status → List Item}

theorem takeRequestWith_ok (up : s.listening = true) (fit : r.fields = some a) (ok : f a s.quiet = .ok (t, items)) :
    takeRequestWith refused type r s f = .next (t.emit (replyTo type r.tag .ok items)) := by
  simp [takeRequestWith, up, fit, ok]

theorem takeRequestWith_refused (up : s.listening = true) (fit : r.fields = some a) (bad : f a s.quiet = .error e) :
    takeRequestWith refused type r s f = .next (s.quiet.emit (replyTo type r.tag e (refused a s.quiet e))) := by
  simp [takeRequestWith, up, fit, bad]

theorem takeRequestWith_misfit (up : s.listening = true) (fit : r.fields = none) :
    takeRequestWith refused type r s f = .next (s.quiet.emit (replyTo type r.tag .badField [])) := by
  simp [takeRequestWith, up, fit]

theorem takeRequestWith_deaf (down : s.listening = false) : takeRequestWith refused type r s f = .next s.quiet := by
  simp [takeRequestWith, down]

/-- A request ends in one of four ways. -/
theorem takeRequestWith_cases (h : takeRequestWith refused type r s f = .next t) :
    t = s.quiet ∨ t = s.quiet.emit (replyTo type r.tag .badField []) ∨
      (∃ a e, r.fields = some a ∧ f a s.quiet = .error e ∧
        t = s.quiet.emit (replyTo type r.tag e (refused a s.quiet e))) ∨
      ∃ a u items, r.fields = some a ∧ f a s.quiet = .ok (u, items) ∧ t = u.emit (replyTo type r.tag .ok items) := by
  unfold takeRequestWith at h
  split at h
  · split at h
    · exact .inr (.inl (Host.Outcome.next.inj h).symm)
    · rename_i a fit
      split at h
      · rename_i e bad
        exact .inr (.inr (.inl ⟨a, e, fit, bad, (Host.Outcome.next.inj h).symm⟩))
      · rename_i u items ok
        exact .inr (.inr (.inr ⟨a, u, items, fit, ok, (Host.Outcome.next.inj h).symm⟩))
  · exact .inl (Host.Outcome.next.inj h).symm

theorem takeRequestWith_next (refused : α → State → Status → List Item) (type : Nat) (r : Req α) (s : State)
    (f : α → State → Answer) : ∃ t, takeRequestWith refused type r s f = .next t := by
  unfold takeRequestWith
  split
  · split
    · exact ⟨_, rfl⟩
    · split <;> exact ⟨_, rfl⟩
  · exact ⟨_, rfl⟩

/-- What the quiet state has, what each success keeps and what a reply does not touch, a request keeps. -/
theorem takeRequestWith_keeps (p : State → Prop) (h : takeRequestWith refused type r s f = .next t) (quiet : p s.quiet)
    (emits : ∀ u x, p u → p (u.emit x)) (keeps : ∀ a u items, f a s.quiet = .ok (u, items) → p u) : p t := by
  rcases takeRequestWith_cases h with rfl | rfl | ⟨a, e, -, -, rfl⟩ | ⟨a, u, items, -, ok, rfl⟩
  · exact quiet
  · exact emits _ _ quiet
  · exact emits _ _ quiet
  · exact emits _ _ (keeps a u items ok)

/-! ### A request whose refusals carry the status alone -/

theorem takeRequest_ok (up : s.listening = true) (fit : r.fields = some a) (ok : f a s.quiet = .ok (t, items)) :
    takeRequest type r s f = .next (t.emit (replyTo type r.tag .ok items)) :=
  takeRequestWith_ok up fit ok

theorem takeRequest_refused (up : s.listening = true) (fit : r.fields = some a) (bad : f a s.quiet = .error e) :
    takeRequest type r s f = .next (s.quiet.emit (replyTo type r.tag e [])) :=
  takeRequestWith_refused up fit bad

theorem takeRequest_misfit (up : s.listening = true) (fit : r.fields = none) :
    takeRequest type r s f = .next (s.quiet.emit (replyTo type r.tag .badField [])) :=
  takeRequestWith_misfit up fit

theorem takeRequest_deaf (down : s.listening = false) : takeRequest type r s f = .next s.quiet :=
  takeRequestWith_deaf down

theorem takeRequest_cases (h : takeRequest type r s f = .next t) :
    t = s.quiet ∨ t = s.quiet.emit (replyTo type r.tag .badField []) ∨
      (∃ e, t = s.quiet.emit (replyTo type r.tag e [])) ∨
      ∃ a u items, r.fields = some a ∧ f a s.quiet = .ok (u, items) ∧ t = u.emit (replyTo type r.tag .ok items) := by
  rcases takeRequestWith_cases h with quiet | misfit | ⟨_, e, -, -, refusal⟩ | taken
  · exact .inl quiet
  · exact .inr (.inl misfit)
  · exact .inr (.inr (.inl ⟨e, refusal⟩))
  · exact .inr (.inr (.inr taken))

theorem takeRequest_next (type : Nat) (r : Req α) (s : State) (f : α → State → Answer) :
    ∃ t, takeRequest type r s f = .next t :=
  takeRequestWith_next _ type r s f

theorem takeRequest_keeps (p : State → Prop) (h : takeRequest type r s f = .next t) (quiet : p s.quiet)
    (emits : ∀ u x, p u → p (u.emit x)) (keeps : ∀ a u items, f a s.quiet = .ok (u, items) → p u) : p t :=
  takeRequestWith_keeps p h quiet emits keeps

end Requests

/-! ### The outcome of an event -/

theorem takeEvent_live {s : State} {f : State → State} (up : s.live = true) : takeEvent s f = .next (f s.quiet) := by
  simp [takeEvent, up]

theorem takeEvent_silent {s : State} {f : State → State} (down : s.live = false) : takeEvent s f = .next s.quiet := by
  simp [takeEvent, down]

/-- An event that the state rules out is discarded. -/
theorem takeEvent_still {s : State} {f : State → State} (still : s.live = true → f s.quiet = s.quiet) :
    takeEvent s f = .next s.quiet := by
  unfold takeEvent
  split
  · rw [still ‹_›]
  · rfl

theorem takeEvent_cases {s t : State} {f : State → State} (h : takeEvent s f = .next t) : t = f s.quiet ∨ t = s.quiet := by
  unfold takeEvent at h
  split at h
  · exact .inl (Host.Outcome.next.inj h).symm
  · exact .inr (Host.Outcome.next.inj h).symm

theorem takeEvent_next (s : State) (f : State → State) : ∃ t, takeEvent s f = .next t := by
  unfold takeEvent
  split <;> exact ⟨_, rfl⟩

/-! ### Taking a request's checks apart, and putting them together -/

theorem bind_ok {α β : Type} {x : Except Status α} {f : α → Except Status β} {b : β} :
    (x >>= f) = .ok b ↔ ∃ a, x = .ok a ∧ f a = .ok b := by
  cases x <;> simp [bind, Except.bind]

theorem pure_ok {α : Type} {a b : α} : (pure a : Except Status α) = .ok b ↔ a = b := by
  simp [pure, Except.pure]

theorem need_ok {c : Prop} [Decidable c] {e : Status} {u : Unit} : need c e = .ok u ↔ c := by
  unfold need
  split <;> simp_all

theorem require_ok {α : Type} {o : Option α} {e : Status} {a : α} : require o e = .ok a ↔ o = some a := by
  cases o <;> simp [require]

theorem needOpen_ok {x : TillState} {u : Unit} : needOpen x = .ok u ↔ x = .opened := by
  cases x <;> simp [needOpen]

theorem needRange_ok {up : Bool} {c : Counts} {b : List (Denom × Nat)} {u : Unit} :
    needRange up c b = .ok u ↔ if up then fitsIn c b = true else covers c b = true := by
  cases up <;> simp [needRange, need_ok]

theorem needLimits_ok {up : Bool} {m : Monitor} {u : Unit} :
    needLimits up m = .ok u ↔ if up then m.enforces .high = false else m.enforces .low = false := by
  cases up <;> simp [needLimits, need_ok]

@[simp] theorem ok_bind {α β : Type} (a : α) (f : α → Except Status β) : ((.ok a : Except Status α) >>= f) = f a := rfl

@[simp] theorem error_bind {α β : Type} (e : Status) (f : α → Except Status β) :
    ((.error e : Except Status α) >>= f) = .error e := rfl

@[simp] theorem require_some {α : Type} (a : α) (e : Status) : require (some a) e = .ok a := rfl

@[simp] theorem require_none {α : Type} (e : Status) : require (none : Option α) e = .error e := rfl

theorem need_true {c : Prop} [Decidable c] {e : Status} (h : c) : need c e = .ok () := if_pos h

theorem need_false {c : Prop} [Decidable c] {e : Status} (h : ¬c) : need c e = .error e := if_neg h

@[simp] theorem needOpen_opened : needOpen .opened = .ok () := rfl

/-! ### Numbers that name a station, a till, a printer -/

@[simp] theorem station?_stationNo (st : Station) : station? (stationNo st) = some st := by
  have inRange : 1 ≤ stationNo st ∧ stationNo st ≤ 12 := ⟨Nat.le_add_left 1 _, st.isLt⟩
  exact dif_pos inRange

@[simp] theorem till?_val (t : Till) : till? t.val = some t := by
  simp [till?, t.isLt]

@[simp] theorem printer?_val (p : Printer) : printer? p.val = some p := by
  simp [printer?, p.isLt]

/-! ### Accessors read the record they name -/

namespace State

theorem atWork?_of_signedOn {s : State} {st : Station} {o : SignOn} (h : s.presence st = .signedOn o) :
    s.atWork? st = some o := by
  simp [atWork?, h]

theorem atWork?_some {s : State} {st : Station} {o : SignOn} : s.atWork? st = some o ↔ s.presence st = .signedOn o := by
  unfold atWork?
  split <;> simp_all

theorem held_of_signedOn {s : State} {st : Station} {o : SignOn} (h : s.presence st = .signedOn o) :
    s.held st = o.held := by
  simp [held, signOn?, h]

@[simp] theorem quiet_listening (s : State) : s.quiet.listening = s.listening := rfl
@[simp] theorem quiet_live (s : State) : s.quiet.live = s.live := rfl
@[simp] theorem quiet_now (s : State) : s.quiet.now = s.now := rfl
@[simp] theorem quiet_till (s : State) (t : Till) : s.quiet.till t = s.till t := rfl
@[simp] theorem quiet_monitor (s : State) (t : Till) : s.quiet.monitor t = s.monitor t := rfl
@[simp] theorem quiet_station (s : State) (st : Station) : s.quiet.station st = s.station st := rfl
@[simp] theorem quiet_presence (s : State) (st : Station) : s.quiet.presence st = s.presence st := rfl
@[simp] theorem quiet_held (s : State) (st : Station) : s.quiet.held st = s.held st := rfl
@[simp] theorem quiet_line (s : State) (st : Station) : s.quiet.line st = s.line st := rfl
@[simp] theorem quiet_printer (s : State) (p : Printer) : s.quiet.printer p = s.printer p := rfl
@[simp] theorem quiet_dayState (s : State) : s.quiet.dayState = s.dayState := rfl
@[simp] theorem quiet_dayNumber (s : State) : s.quiet.dayNumber = s.dayNumber := rfl
@[simp] theorem quiet_free (s : State) : s.quiet.free = s.free := rfl
@[simp] theorem quiet_customerRoom (s : State) : s.quiet.customerRoom = s.customerRoom := rfl
@[simp] theorem quiet_marginRoom (s : State) : s.quiet.marginRoom = s.marginRoom := rfl
@[simp] theorem quiet_atWork? (s : State) (st : Station) : s.quiet.atWork? st = s.atWork? st := rfl
@[simp] theorem quiet_signOn? (s : State) (st : Station) : s.quiet.signOn? st = s.signOn? st := rfl
@[simp] theorem quiet_entry? (s : State) (q : Nat) : s.quiet.entry? q = s.entry? q := rfl
@[simp] theorem quiet_job? (s : State) (id : Nat) : s.quiet.job? id = s.job? id := rfl
@[simp] theorem quiet_tillValue (s : State) (t : Till) : s.quiet.tillValue t = s.tillValue t := rfl

end State

/-- A refusal of LIMIT ARM that names a till: with WRONG_STATE it carries the state of the till's monitor (log 25). -/
theorem armRefusal_eq (f : TillFields) (s : State) (e : Status) (t : Till) (named : till? f.till = some t) :
    armRefusal f s e = if e = .wrongState then [u8 (s.monitor t).state.code] else [] := by
  unfold armRefusal
  rw [named]
  cases e <;> rfl

/-- A byte on a link moves that link's receiver and nothing else, and brings at most one command. -/
theorem State.hearLink_only (s : State) (port : LinkPort) (b : Byte) :
    ((s.hearLink port b).1 = s ∨ ∃ r, (s.hearLink port b).1 = s.setReceiver port r) ∧
      (s.hearLink port b).2.length ≤ 1 := by
  unfold State.hearLink
  split
  · split <;> split
    · exact ⟨.inr ⟨_, rfl⟩, Nat.zero_le _⟩
    · exact ⟨.inl rfl, Nat.zero_le _⟩
    · exact ⟨.inr ⟨_, rfl⟩, Nat.le_refl _⟩
    · exact ⟨.inr ⟨_, rfl⟩, Nat.zero_le _⟩
  · exact ⟨.inl rfl, Nat.zero_le _⟩

end Sys2Proof.Machine
end

