-- ==== Sys2Proof/Tests/Slice0.lean ====
section
/-! SUPPORT. Tests: ill-formed commands are refused, commands do on small states what their rules say, and the hypotheses of every statement
are met by a concrete state. -/

namespace Sys2Proof.Tests

open Sys2Proof Sys2Proof.Machine

set_option maxRecDepth 40000

/-! ### Ill-formed commands -/

/-- A request of tag 0 with the fields given. -/
def req {α : Type} (a : α) : Req α := ⟨0, some a⟩

theorem test_wf_reset_tag : (Instr.dayStatus ⟨255, some ⟨⟩⟩).wf = true ∧ (Instr.dayStatus ⟨256, some ⟨⟩⟩).wf = false ∧
    (Instr.scanStatus ⟨256, none⟩).wf = false ∧ (Instr.printerStatus ⟨256, none⟩).wf = false ∧
    (Instr.cutDisarm ⟨256, none⟩).wf = false ∧ (Instr.cutStatus ⟨256, none⟩).wf = false ∧
    (Instr.sendStart ⟨256, none⟩).wf = false ∧ (Instr.sendResume ⟨256, none⟩).wf = false ∧
    (Instr.sendRestart ⟨256, none⟩).wf = false ∧ (Instr.sendStatus ⟨256, none⟩).wf = false ∧
    (Instr.identify ⟨256, none⟩).wf = false ∧ (Instr.restart ⟨256, none⟩).wf = false := by decide

theorem test_wf_day : (Instr.denomSet (req ⟨[(256, 1)]⟩)).wf = false ∧ (Instr.denomSet (req ⟨[(0, 4294967296)]⟩)).wf = false ∧
    (Instr.openingSet (req ⟨256, []⟩)).wf = false ∧ (Instr.openingSet (req ⟨0, [(0, 4294967296)]⟩)).wf = false ∧
    (Instr.dayBegin (req ⟨[], 1⟩)).wf = false ∧ (Instr.dayBegin (req ⟨[0, 0, 0, 0, 0, 0], 65536⟩)).wf = false ∧
    (Instr.journalRead (req ⟨4294967296, 1⟩)).wf = false ∧ (Instr.journalRead (req ⟨1, 256⟩)).wf = false := by decide

theorem test_wf_tills : (Instr.takeTill (req ⟨256, 0⟩)).wf = false ∧ (Instr.takeTill (req ⟨1, 256⟩)).wf = false ∧
    (Instr.releaseTill (req ⟨1, 256⟩)).wf = false ∧ (Instr.countBegin (req ⟨256, 0⟩)).wf = false ∧
    (Instr.countAbandon (req ⟨256, 0⟩)).wf = false ∧ (Instr.post (req ⟨256, 1, 1, [], none⟩)).wf = false ∧
    (Instr.post (req ⟨1, 256, 1, [], none⟩)).wf = false ∧ (Instr.post (req ⟨1, 1, 256, [], none⟩)).wf = false ∧
    (Instr.post (req ⟨1, 1, 1, [(256, 0)], none⟩)).wf = false ∧
    (Instr.post (req ⟨1, 1, 1, [], some (List.replicate 17 0)⟩)).wf = false ∧ (Instr.void (req ⟨256, 0⟩)).wf = false ∧
    (Instr.void (req ⟨1, 4294967296⟩)).wf = false ∧ (Instr.countDeclare (req ⟨256, 0, []⟩)).wf = false ∧
    (Instr.countDeclare (req ⟨0, 256, []⟩)).wf = false ∧ (Instr.countDeclare (req ⟨0, 0, [(0, 4294967296)]⟩)).wf = false ∧
    (Instr.transferOffer (req ⟨256, 0, []⟩)).wf = false ∧ (Instr.transferOffer (req ⟨0, 256, []⟩)).wf = false ∧
    (Instr.transferOffer (req ⟨0, 0, [(256, 0)]⟩)).wf = false ∧ (Instr.transferAccept (req ⟨256, 0⟩)).wf = false ∧
    (Instr.transferReject (req ⟨0, 256⟩)).wf = false ∧ (Instr.tillStatus (req ⟨256⟩)).wf = false := by decide

theorem test_wf_limits : (Instr.limitSet (req ⟨256, 0, 0, 0, true⟩)).wf = false ∧
    (Instr.limitSet (req ⟨0, 18446744073709551616, 0, 0, true⟩)).wf = false ∧
    (Instr.limitSet (req ⟨0, 0, 18446744073709551616, 0, true⟩)).wf = false ∧
    (Instr.limitSet (req ⟨0, 0, 0, 256, true⟩)).wf = false ∧ (Instr.limitClear (req ⟨256⟩)).wf = false ∧
    (Instr.limitArm (req ⟨256⟩)).wf = false := by decide

theorem test_wf_stations : (Instr.signOn (req ⟨256, [], 1⟩)).wf = false ∧
    (Instr.signOn (req ⟨1, List.replicate 9 0, 1⟩)).wf = false ∧ (Instr.signOn (req ⟨1, [], 256⟩)).wf = false ∧
    (Instr.signOff (req ⟨256⟩)).wf = false ∧ (Instr.stationSetup (req ⟨256, 0, 0, 0, 0⟩)).wf = false ∧
    (Instr.stationSetup (req ⟨0, 256, 0, 0, 0⟩)).wf = false ∧ (Instr.stationSetup (req ⟨0, 0, 256, 0, 0⟩)).wf = false ∧
    (Instr.stationSetup (req ⟨0, 0, 0, 256, 0⟩)).wf = false ∧ (Instr.stationSetup (req ⟨0, 0, 0, 0, 256⟩)).wf = false ∧
    (Instr.stationStatus (req ⟨256⟩)).wf = false ∧ (Instr.display (req ⟨256, 1, 1, 0, []⟩)).wf = false ∧
    (Instr.display (req ⟨1, 256, 1, 0, []⟩)).wf = false ∧ (Instr.display (req ⟨1, 1, 256, 0, []⟩)).wf = false ∧
    (Instr.display (req ⟨1, 1, 1, 256, []⟩)).wf = false ∧
    (Instr.display (req ⟨1, 1, 1, 0, List.replicate 81 0⟩)).wf = false ∧ (Instr.readInput (req ⟨256, 1⟩)).wf = false ∧
    (Instr.readInput (req ⟨1, 256⟩)).wf = false ∧ (Instr.lineTestStart (req ⟨256⟩)).wf = false ∧
    (Instr.lineTestStop (req ⟨256⟩)).wf = false ∧ (Instr.scanSet (req ⟨256, 1⟩)).wf = false ∧
    (Instr.scanSet (req ⟨1, 256⟩)).wf = false := by decide

theorem test_wf_printers : (Instr.assignPrinter (req ⟨256, 0⟩)).wf = false ∧ (Instr.assignPrinter (req ⟨0, 256⟩)).wf = false ∧
    (Instr.printerHold (req ⟨256⟩)).wf = false ∧ (Instr.printerFree (req ⟨256⟩)).wf = false ∧
    (Instr.printerReset (req ⟨256⟩)).wf = false ∧ (Instr.printSubmit (req ⟨256, [], []⟩)).wf = false ∧
    (Instr.printSubmit (req ⟨1, List.replicate 13 0, []⟩)).wf = false ∧
    (Instr.printSubmit (req ⟨1, [], [⟨List.replicate 41 0, none⟩]⟩)).wf = false ∧
    (Instr.printSubmit (req ⟨1, [], [⟨[], some 4294967296⟩]⟩)).wf = false ∧ (Instr.printCancel (req ⟨256⟩)).wf = false ∧
    (Instr.jobStatus (req ⟨256⟩)).wf = false ∧ (Instr.bookIn 0 [] 1 1).wf = false ∧
    (Instr.bookIn 0 (List.replicate 12 0) 256 1).wf = false ∧ (Instr.bookIn 0 (List.replicate 12 0) 1 256).wf = false ∧
    (Instr.fault 0 256).wf = false ∧ (Instr.fault 0 255).wf = true := by decide

theorem test_wf_cut_and_send : (Instr.cutArm (req ⟨256, none, false⟩)).wf = false ∧
    (Instr.cutArm (req ⟨2, some 4294967296, false⟩)).wf = false ∧ (Instr.sendConfig (req ⟨true, 256⟩)).wf = false ∧
    (Instr.readNotices (req ⟨256⟩)).wf = false ∧ (Instr.timeSet (req ⟨4294967296, 0⟩)).wf = false ∧
    (Instr.timeSet (req ⟨0, 65536⟩)).wf = false ∧ (Instr.unknownRequest 256 0).wf = false ∧
    (Instr.unknownRequest 0 256).wf = false ∧ (Instr.transferExpiry 0).wf = false ∧ (Instr.transferExpiry 256).wf = false ∧
    (Instr.transferReturnRetry 0).wf = false ∧ (Instr.transferReturnRetry 256).wf = false ∧
    (Instr.jobWaitTimeout 0).wf = false ∧ (Instr.jobWaitTimeout 256).wf = false ∧ (Instr.ack 65536).wf = false ∧
    (Instr.nak 65536).wf = false ∧ (Instr.reject 256).wf = false ∧ (Instr.echo (List.replicate 851 0)).wf = false ∧
    (Instr.screenReply ⟨256, false, .nothing⟩).wf = false ∧
    (Instr.screenReply ⟨1, false, .entry 256 false []⟩).wf = false ∧
    (Instr.screenReply ⟨1, false, .entry 1 false (List.replicate 65 0)⟩).wf = false ∧
    (Instr.screenReply ⟨1, false, .echo (List.replicate 83 0)⟩).wf = false := by decide

/-- No table row gives bits: no word spells a command. -/
theorem test_no_word_spells_a_command : decodeTableWord 8 0xA5 = none ∧
    (State.withFetchWord State.reset 8 0xA5).pending = [] := by decide

/-! ### Small states -/

def faces : Counts := #v[50000, 20000, 10000, 5000, 2000, 1000, 500, 200, 100, 1]
def facePairs : List (Nat × Nat) :=
  [(9, 1), (0, 50000), (1, 20000), (2, 10000), (3, 5000), (4, 2000), (5, 1000), (6, 500), (7, 200), (8, 100)]
def five : Counts := Vector.replicate 10 5
def pairsOf (n : Nat) : List (Nat × Nat) := (List.range 10).map fun d => (d, n)
def branch : Text := [0x30, 0x31, 0x32, 0x33, 0x34, 0x39]

/-- An unset part with its denominations given. -/
def priced : State := { State.reset with tlu := { State.reset.tlu with denoms := some faces } }

/-- Day 7 in progress, five of each in every till. -/
def begun : State :=
  { priced with
    dju := { priced.dju with day := some { number := 7, branch := branch } }
    tlu := { priced.tlu with tills := Vector.replicate 13 { TillRec.cold with counts := five } } }

def operator (role : Role) (held : Option Till) : SignOn := { operator := [0x41], role := role, time := 0, held := held }

/-- Station 1 signed on as a teller without a till. -/
def onDuty : State := begun.setPresence 0 (.signedOn (operator .teller none))

/-- Station 1 holding till 1 in a state. -/
def holding (x : TillState) : State :=
  (begun.setPresence 0 (.signedOn (operator .teller (some 1)))).setTill 1 { begun.till 1 with
    state := x, holder := some 0
    count := if x = .counting then some { book := five, station := 0, time := 0 } else none }

/-- A CASH_OUT of one of denomination 9 by station 1 on day 7. -/
def paid : Entry :=
  { seq := 1, day := 7, time := 0, station := 0, kind := .cashOut, till := 1, till2 := none, account := none,
    breakdown := some [(9, 1)], amount := some 1, ref := none, status := .live, passbook := .none, transferId := none }

/-- Station 1 holding till 1, with one posting journalled. -/
def posted : State :=
  { holding .opened with dju := { (holding .opened).dju with journal := [paid], nextSeq := 2 } }

/-- A transfer of one of denomination 9 from till 2 to till 1. -/
def moving : Transfer :=
  { id := 3, source := 2, destination := 1, breakdown := [(9, 1)], amount := 1, station := 1, offeredTo := some 0,
    outSeq := 1, remaining := 1, waiting := false }

def offered (x : Transfer) : State := (holding .opened).setTransfers [x]

def watch (x : MonitorState) (streak : Nat) (d : Option Direction) : Monitor :=
  { limits := { lower := 10, upper := 20, filter := 2, enforce := true }, state := x, streak := streak, streakDir := d,
    live := d.isSome, pending := none }

/-- A finished and an unfinished job of station 1. -/
def jobOf (x : JobState) (p : Option Printer) : Job :=
  { id := 4, station := 0, book := List.replicate 12 0x31, lines := [⟨[0x41], none, .waiting, none, none⟩], state := x,
    printer := p, next := 1, place := none, wait := none, cancelPending := false, printed := 0, reason := none }

def withJob (s : State) (j : Job) : State := s.setJobs [j]

/-- Printer 2 at work on job 4. -/
def bound (x : Device) : PrinterRec := { PrinterRec.cold with device := x, bound := some 4 }

/-- The outstanding batch of day 6, in a send state with a window. -/
def sendingIn (x : SendState) (window : List (Nat × Nat)) : State :=
  { onDuty with
    pins := { onDuty.pins with carrier := true }
    dju := { onDuty.dju with cutRecord := some ⟨6, 1, 0, Vector.ofFn onDuty.tillSnap, []⟩ }
    hos := { onDuty.hos with
      state := x, batch := some { day := 6, blocks := 6, oldest := 1 }, next := some (window.length + 1), window := window } }

def after (c : Instr) (s : State) : State :=
  match exec c s with
  | .next u => u
  | _ => s

/-! ### Commands on small states -/

theorem test_reset_polls_the_first_station : State.reset.sent = [.screen 0 .poll .none] ∧ State.reset.attn = true := by decide

theorem test_denomSet : (after (.denomSet (req ⟨facePairs⟩)) State.reset).tlu.denoms = some faces := by decide

theorem test_denomSet_refuses_equal_faces : (after (.denomSet (req ⟨(0, 1) :: facePairs.drop 1⟩)) State.reset).sent =
    [replyTo 0x01 0 .badField []] := by decide

theorem test_openingSet : ((after (.openingSet (req ⟨12, pairsOf 65535⟩)) State.reset).till 12).counts =
    Vector.replicate 10 65535 := by decide

theorem test_dayBegin : (after (.dayBegin (req ⟨branch, 65535⟩)) priced).dju.day = some { number := 65535, branch := branch } ∧
    (after (.dayBegin (req ⟨branch, 1⟩)) priced).dayState = .opened := by decide

theorem test_dayStatus : (after (.dayStatus (req ⟨⟩)) posted).sent = [replyTo 0x04 0 .ok
    [u8 2, flag true, u16 7, flag true, .raw branch, u16 4095, flag true, u32 1, flag true, u32 1, flag true, u32 2,
      flag false, flag false, u16 0, flag false, u32 0, flag false]] := by decide

theorem test_journalRead : (after (.journalRead (req ⟨1, 16⟩)) posted).sent =
    [replyTo 0x05 0 .ok [u8 1, .posting paid, u8 1, u32 2, flag false]] := by decide

theorem test_takeTill : (after (.takeTill (req ⟨1, 12⟩)) onDuty).till 12 =
      { begun.till 12 with state := .opened, holder := some 0 } ∧
    (after (.takeTill (req ⟨1, 12⟩)) onDuty).held 0 = some 12 := by decide

theorem test_takeTill_refuses_a_teller_the_strongroom :
    (after (.takeTill (req ⟨1, 0⟩)) onDuty).sent = [replyTo 0x10 0 .role []] := by decide

theorem test_releaseTill : ((after (.releaseTill (req ⟨1, 1⟩)) (holding .balanced)).till 1).state = .closed ∧
    (after (.releaseTill (req ⟨1, 1⟩)) (holding .balanced)).held 0 = none := by decide

theorem test_post : ((after (.post (req ⟨1, 2, 1, [(9, 5), (0, 1)], none⟩)) (holding .opened)).till 1).counts =
      #v[4, 5, 5, 5, 5, 5, 5, 5, 5, 0] ∧
    ((after (.post (req ⟨1, 2, 1, [(9, 5), (0, 1)], none⟩)) (holding .opened)).entry? 1).map (·.breakdown) =
      some (some [(0, 1), (9, 5)]) := by decide

theorem test_post_refuses_what_the_till_lacks :
    (after (.post (req ⟨1, 2, 1, [(9, 6)], none⟩)) (holding .opened)).sent = [replyTo 0x12 0 .short []] := by decide

theorem test_void : ((after (.void (req ⟨1, 1⟩)) posted).till 1).counts[9] = 6 ∧
    ((after (.void (req ⟨1, 1⟩)) posted).entry? 1).map (·.status) = some .voided ∧
    ((after (.void (req ⟨1, 1⟩)) posted).entry? 2).map (·.ref) = some (some 1) := by decide

theorem test_countBegin : ((after (.countBegin (req ⟨1, 1⟩)) (holding .opened)).till 1).count =
    some { book := five, station := 0, time := 0 } := by decide

theorem test_countDeclare : ((after (.countDeclare (req ⟨1, 1, pairsOf 6⟩)) (holding .counting)).till 1).counts =
      Vector.replicate 10 6 ∧
    ((after (.countDeclare (req ⟨1, 1, pairsOf 6⟩)) (holding .counting)).entry? 1).map (·.amount) =
      some (some 88801) := by decide

theorem test_countAbandon : ((after (.countAbandon (req ⟨1, 1⟩)) (holding .counting)).till 1).state = .opened := by decide

theorem test_transferOffer : (after (.transferOffer (req ⟨1, 2, [(9, 5)]⟩)) (holding .opened)).tlu.transfers =
    [⟨1, 1, 2, [(9, 5)], 5, 0, none, 1, 300, false⟩] := by decide

theorem test_transferAccept : ((after (.transferAccept (req ⟨1, 3⟩)) (offered moving)).till 1).counts[9] = 6 ∧
    (after (.transferAccept (req ⟨1, 3⟩)) (offered moving)).tlu.transfers = [] := by decide

theorem test_transferReject : ((after (.transferReject (req ⟨1, 3⟩)) (offered moving)).till 2).counts[9] = 6 := by decide

theorem test_transferExpiry : ((after (.transferExpiry 3) (offered moving)).till 2).counts[9] = 6 ∧
    ((after (.transferExpiry 3) (offered moving)).entry? 1).map (·.station) = some 1 := by decide

theorem test_transferReturnRetry :
    ((after (.transferReturnRetry 3) (offered { moving with remaining := 0, waiting := true })).till 2).counts[9] = 6 ∧
    after (.transferReturnRetry 3) (offered moving) = (offered moving).quiet := by decide

theorem test_tillStatus : (after (.tillStatus (req ⟨13⟩)) begun).sent = [replyTo 0x1A 0 .badField []] := by decide

theorem test_limitSet : (after (.limitSet (req ⟨1, 0, 65535000000, 15, true⟩)) begun).monitor 1 =
    { Monitor.cold with limits := ⟨0, 65535000000, 15, true⟩ } := by decide

theorem test_limitClear : ((after (.limitClear (req ⟨1⟩)) (begun.setMonitor 1 (watch (.tripped .low) 2 (some .low)))).monitor
    1).state = .off := by decide

theorem test_limitArm : ((after (.limitArm (req ⟨1⟩)) (begun.setMonitor 1 (watch .off 0 none))).monitor 1).state =
    .watching := by decide

/-- R60: the refusal carries the monitor state, OFF and TRIPPED. -/
theorem test_limitArm_refused : (after (.limitArm (req ⟨1⟩)) begun).sent = [replyTo 0x22 0 .wrongState [u8 1]] ∧
    (after (.limitArm (req ⟨1⟩)) (begun.setMonitor 1 (watch (.tripped .low) 2 (some .low)))).sent =
      [replyTo 0x22 0 .wrongState [u8 3]] := by decide

theorem test_signOn : (after (.signOn (req ⟨12, [0x41], 2⟩)) (begun.setPresence 11 .present)).presence 11 =
    .signedOn (operator .supervisor none) := by decide

theorem test_signOff : (after (.signOff (req ⟨1⟩)) onDuty).presence 0 = .present := by decide

theorem test_stationSetup : ((after (.stationSetup (req ⟨1, 16, 40, 3, 1⟩)) onDuty).station 0).setup = ⟨25, 80, 0, 1⟩ ∧
    ((after (.stationSetup (req ⟨2, 16, 40, 3, 1⟩)) onDuty).station 1).setup = ⟨16, 40, 3, 1⟩ := by decide

theorem test_stationStatus : (after (.stationStatus (req ⟨0⟩)) onDuty).sent = [replyTo 0x2B 0 .badField []] := by decide

theorem test_display : ((after (.display (req ⟨1, 25, 80, 2, [0x41]⟩)) onDuty).line 0).output = [⟨25, 80, 2, [0x41]⟩] ∧
    (after (.display (req ⟨1, 25, 80, 2, [0x41, 0x41]⟩)) onDuty).sent = [replyTo 0x30 0 .badField []] := by decide

theorem test_readInput : (after (.readInput (req ⟨1, 16⟩)) onDuty).sent =
    [replyTo 0x31 0 .ok [u8 0, u8 0, flag false]] := by decide

theorem test_lineTestStart : ((after (.lineTestStart (req ⟨12⟩)) (begun.setPresence 11 .present)).line 11).test.running =
    true := by decide

theorem test_lineTestStop : (after (.lineTestStop (req ⟨12⟩)) begun).sent = [replyTo 0x33 0 .wrongState []] := by decide

theorem test_scanSet : (after (.scanSet (req ⟨12, 1⟩)) (onDuty.setPresence 1 .present)).sent =
    [replyTo 0x34 0 .ok [u8 12, u8 1, u8 1, u8 2]] := by decide

/-- R98: the first test characters of a generator with all bits set. -/
theorem test_pattern : (patternChars 2 (BitVec.allOnes 15)).2 = [0x00, 0x02] := by decide

theorem test_screenReply : ((after (.screenReply ⟨1, false, .entry 1 true [0x41]⟩) onDuty).line 0).input =
      [⟨.key, [0x41], 0⟩] ∧
    (after (.screenReply ⟨1, false, .nothing⟩) begun).presence 0 = .present := by decide

theorem test_slotReplyTimeout : ((after .slotReplyTimeout onDuty).line 0).misses = 1 ∧
    (after .slotReplyTimeout (onDuty.setLine 0 { onDuty.line 0 with misses := 2 })).presence 0 =
      .lost (operator .teller none) 600 := by decide

theorem test_assignPrinter : ((after (.assignPrinter (req ⟨3, 12⟩)) begun).printer 3).owner = .station 11 ∧
    ((after (.assignPrinter (req ⟨3, 0⟩)) begun).printer 3).owner = .pool := by decide

theorem test_printerHold : (after (.printerHold (req ⟨255⟩)) begun).sent = [replyTo 0x41 0 .ok [u8 15]] ∧
    (after (.printerHold (req ⟨3⟩)) begun).sent = [replyTo 0x41 0 .ok [u8 8]] := by decide

theorem test_printerFree : (after (.printerFree (req ⟨4⟩)) begun).sent = [replyTo 0x42 0 .badField []] := by decide

theorem test_printerReset : ((after (.printerReset (req ⟨2⟩)) (begun.setPrinter 2 { PrinterRec.cold with
    device := .fault })).printer 2).device = .offline := by decide

theorem test_printSubmit : (after (.printSubmit (req ⟨1, List.replicate 12 0x31, [⟨[0x41], some 1⟩]⟩)) posted).sent =
      [replyTo 0x48 0 .ok [u8 1, u8 1]] ∧
    ((after (.printSubmit (req ⟨1, List.replicate 12 0x31, [⟨[0x41], some 1⟩]⟩)) posted).entry? 1).map (·.passbook) =
      some .pending := by decide

theorem test_printCancel : ((after (.printCancel (req ⟨4⟩)) (withJob onDuty (jobOf .queued none))).job? 4).map (·.reason) =
    some (some .host) := by decide

theorem test_jobStatus : (after (.jobStatus (req ⟨4⟩)) (withJob onDuty (jobOf .done none))).pjq.jobs = [] := by decide

theorem test_ready_picks : (after (.ready 2) (withJob onDuty (jobOf .queued none))).sent =
    [.printer 2 (.showInsert (List.replicate 12 0x31))] := by decide

/-- Two jobs wait, 5 before 4 in the table; printer 2 takes the older one. -/
def twoWaiting : State :=
  (onDuty.setJobs [{ jobOf .queued none with id := 5 }, jobOf .queued none]).setPrinter 2 { PrinterRec.cold with device := .idle }

theorem test_pick_takes_the_oldest : (after (.printerFree (req ⟨2⟩)) twoWaiting).pjq.jobs.map (fun j => (j.id, j.printer, j.wait)) =
      [(5, some 2, some 180), (4, none, none)] ∧
    (after (.printerFree (req ⟨2⟩)) twoWaiting).prc[2] = { PrinterRec.cold with device := .waitingBook, bound := some 5 } := by
  decide

theorem test_bookIn : (after (.bookIn 2 (List.replicate 12 0x31) 32 24) ((withJob onDuty (jobOf .started (some 2))).setPrinter 2
    (bound .waitingBook))).sent = [.printer 2 (.printLine 24 [0x41])] := by decide

theorem test_clockTick : (after .clockTick { begun with hlc := { begun.hlc with clock := ⟨86399, 65535, true⟩ } }).hlc.clock =
    ⟨0, 0, true⟩ := by decide

theorem test_cutArm_forced : ((after (.cutArm (req ⟨1, none, true⟩)) onDuty).dju.day).map (·.number) = some 8 ∧
    (after (.cutArm (req ⟨1, none, true⟩)) onDuty).hos.batch = some ⟨7, 6, 1⟩ := by decide

theorem test_cutTrigger : (after .cutTrigger { onDuty with
    cut := some ⟨.awaitTrigger, .atTime, some 0, true, 0, none⟩
    hlc := { onDuty.hlc with clock := ⟨86399, 3, true⟩ } }).cut = none := by decide

theorem test_sendStart : (after (.sendStart (req ⟨⟩)) (sendingIn .ready [])).hos.state = .testing := by decide

theorem test_ack_completes : (after (.ack 6) (sendingIn .sending [(1, 0), (6, 0)])).hos.state = .idle ∧
    (after (.ack 6) (sendingIn .sending [(1, 0), (6, 0)])).dju.cutRecord = none := by decide

theorem test_nak_suspends : (after (.nak 2) (sendingIn .sending [(1, 0), (2, 3)])).hos.state = .suspended .timeout := by decide

theorem test_restart : (after (.resetRelease ⟨true, true⟩) (after .resetAssert onDuty)).presence 0 =
      .lost (operator .teller none) 600 ∧
    (after (.resetRelease ⟨true, true⟩) (after .resetAssert onDuty)).hlc.rate = .r115200 := by decide

theorem test_powerOn_cold : (after (.powerOn false ⟨false, true⟩) (after .lossOfMainPower onDuty)).dju.day = none := by decide

/-- R189: the check of the nine characters "123456789" under the rule's polynomial and start. -/
theorem test_check_word : crc16 [0x31, 0x32, 0x33, 0x34, 0x35, 0x36, 0x37, 0x38, 0x39] = 0x29B1#16 := by decide

/-- A DAY STATUS frame of tag 9, byte by byte, is the command it stands for. -/
theorem test_host_frame : frameCommand (checked [0x00, 0x02, 0x04, 0x09]) = .dayStatus ⟨9, some ⟨⟩⟩ ∧
    frameCommand ([0x00, 0x02, 0x04, 0x09, 0x00, 0x00]) = .hostFrameError := by decide

theorem test_screen_frame : screenCommand (checked [0x01, 0x01, 0x00]) = .screenReply ⟨1, true, .nothing⟩ := by decide
theorem test_printer_frame : printerCommand 2 (checked [0x86, 0x01, 0x07]) = .fault 2 7 := by decide
theorem test_line_frame : lineCommand (checked [0x81, 0x00, 0x02, 0x01, 0x00]) = .ack 256 := by decide

/-! ### The hypotheses of the statements are met -/

theorem noGate_of_unarmed {s : State} (h : s.cut = none) : NoGate s := by
  intro a ha
  rw [h] at ha
  cases ha

theorem test_meets_StepRunsTheFrontCommand :
    { State.reset with pending := [.clockTick] }.pending = [Instr.clockTick] ∧ State.reset.pending = [] := by decide

theorem test_meets_RequestsAreAnswered : (Instr.dayStatus ⟨9, none⟩).request? = some (0x04, 9) ∧
    State.reset.listening = true := by decide

theorem test_meets_Misfits : (Instr.void ⟨9, none⟩).request? = some (0x13, 9) ∧ (Instr.void ⟨9, none⟩).fits = false ∧
    State.reset.listening = true ∧ { State.reset with hlc := { State.reset.hlc with restarting := true } }.listening = false ∧
    (Instr.ack 1).reachesStopped = false ∧ (after .lossOfMainPower onDuty).live = false ∧
    (after .resetAssert onDuty).live = false := by
  decide

/-- A part with one command waiting, one posting journalled and one till held meets every invariant of a step. -/
def waiting : State := { posted with pending := [.clockTick] }

theorem test_meets_QueuesTablesAndTimersStayBounded : NoticesBounded waiting ∧ TablesBounded waiting ∧ TimersInRange waiting ∧
    (∃ u, step waiting = .next u) := by
  refine ⟨?_, ?_, ⟨?_, ?_, ?_, ?_, ?_, ?_, ?_⟩, ⟨_, rfl⟩⟩
  · unfold NoticesBounded; decide
  · unfold TablesBounded; decide
  · decide
  · intro st o g h
    have away : ∀ x : Station, (waiting.presence x).code ≠ 4 := by decide
    exact absurd (congrArg Presence.code h) (away st)
  · intro j h; cases h
  · decide
  · intro n h; cases h
  · intro n h; cases h
  · intro n h; cases h

/-- The clauses of `TimersRun` in a form that can be decided. -/
theorem timersRun_of {s : State} (transfers : ∀ x ∈ s.tlu.transfers, x.waiting = decide (x.remaining = 0))
    (graces : ∀ st : Station, (match s.presence st with | .lost _ g => decide (1 ≤ g) | _ => true) = true)
    (jobs : ∀ j ∈ s.pjq.jobs, ∀ w ∈ j.wait, 1 ≤ w)
    (printers : ∀ p : Printer, (s.printer p).device ≠ .fault → 1 ≤ (s.printer p).timer)
    (hos : (∀ n ∈ s.hos.ackTimer, 1 ≤ n) ∧ (∀ n ∈ s.hos.holdTimer, 1 ≤ n) ∧ ∀ n ∈ s.hos.test.echoTimer, 1 ≤ n) : TimersRun s := by
  refine ⟨transfers, ?_, jobs, printers, hos⟩
  intro st o g lost
  have runs := graces st
  rw [lost] at runs
  exact of_decide_eq_true runs

/-- A part without a batch and with no timer of a send. -/
theorem sendRuns_of_idle {s : State} (cold : s.hos = Hos.cold) : SendRuns s := by
  unfold SendRuns
  rw [cold]
  exact ⟨fun _ h => (nomatch h), fun _ => ⟨by decide, by decide, by decide, fun _ _ => rfl, fun _ _ _ => rfl,
    fun h => absurd h (by decide), fun h => absurd h (by decide)⟩⟩

theorem test_meets_QueuesTablesAndTimersStayBounded_running :
    TimersRun waiting ∧ SendRuns waiting ∧ SendFollowsCut waiting ∧ DaysInOrder waiting :=
  ⟨timersRun_of (by decide) (by decide) (by decide) (by decide) (by decide), sendRuns_of_idle (by decide),
    by unfold SendFollowsCut; decide, by decide, (by decide : ∀ e ∈ waiting.dju.journal, e.day = 7)⟩

theorem posted_runs : JournalRuns posted := by
  refine ⟨by decide, by decide, by decide, ?_⟩
  intro i h
  have zero : i = 0 := Nat.lt_one_iff.mp h
  subst zero
  rfl

/-- The cash of every till and the one taken out of denomination 9. -/
def openingCash : Counts := #v[65, 65, 65, 65, 65, 65, 65, 65, 65, 66]

/-- A part whose cash balances; `old` entries of the day before, its cut record beside them, may stand at the journal's head. -/
def balanced (old : List Entry) : State :=
  { (if old = [] then posted else sendingIn .ready []) with
    pending := [.clockTick]
    tlu := { posted.tlu with branchOpening := some openingCash }
    dju := { (if old = [] then posted else sendingIn .ready []).dju with
      journal := old ++ [{ paid with seq := old.length + 1 }], nextSeq := old.length + 2 } }

theorem test_meets_JournalKeepsRunning : (JournalRuns (balanced []) ∧ DaysInOrder (balanced []) ∧ CashBalances (balanced []) ∧
      SendFollowsCut (balanced [])) ∧
    JournalRuns (balanced [{ paid with day := 6 }]) ∧ DaysInOrder (balanced [{ paid with day := 6 }]) ∧
    CashBalances (balanced [{ paid with day := 6 }]) ∧ SendFollowsCut (balanced [{ paid with day := 6 }]) := by
  have still : ∀ (old : List Entry) (t : Till), ((balanced old).till t).state ≠ .counting := by
    intro old
    exact (by decide : ∀ t : Till, (posted.till t).state ≠ .counting)
  refine ⟨⟨⟨by decide, by decide, by decide, by decide⟩, ⟨by decide, (by decide : ∀ e ∈ (balanced []).dju.journal, e.day = 7)⟩,
      ⟨fun t c h => absurd h (still _ t), by decide, by decide, by decide, openingCash, rfl, by decide⟩, ?_⟩,
    ⟨by decide, by decide, by decide, by decide⟩,
    ⟨by decide, by decide, [{ paid with day := 6 }], [{ paid with seq := 2 }], rfl, by decide, by decide⟩,
    ⟨fun t c h => absurd h (still _ t), by decide, by decide, by decide, openingCash, rfl, by decide⟩, ?_⟩ <;>
  · unfold SendFollowsCut
    decide

theorem test_meets_CountsStayInRange : CountsInRange waiting := by unfold CountsInRange; decide

theorem test_meets_ClockStaysLegal : ClockLegal waiting := by unfold ClockLegal; decide

/-- Printer 2 and job 4 bound to each other, the job in a state and the printer in the device state that goes with it. -/
def serving (j : Job) (d : Device) : State := (withJob onDuty j).setPrinter 2 (bound d)

theorem test_meets_HoldsAndBindingsKeepAgreeing : HoldsAgree waiting ∧ BindingsAgree waiting ∧
    BindingsAgree (serving (jobOf .printing (some 2)) .printing) ∧
    BindingsAgree { serving (jobOf .printing (some 2)) .idle with
      pins := { onDuty.pins with powered := false } } :=
  ⟨by unfold HoldsAgree; decide, by unfold BindingsAgree; decide, by unfold BindingsAgree; decide,
    by unfold BindingsAgree; decide⟩

/-- Blocks 1 to 4 are out and block 5 is next; and HELD with block 1 out, to be sent again. -/
def outstanding : State :=
  { sendingIn .sending [(1, 0), (2, 3), (3, 1), (4, 0)] with
    hos := { (sendingIn .sending [(1, 0), (2, 3), (3, 1), (4, 0)]).hos with ackTimer := some 20 } }

def heldBack : State :=
  { sendingIn .held [(1, 1)] with hos := { (sendingIn .held [(1, 1)]).hos with next := some 1, holdTimer := some 600 } }

theorem test_meets_TimersRun : TimersRun outstanding :=
  timersRun_of (by decide) (by decide) (by decide) (by decide) (by decide)

theorem test_meets_SendRuns : (SendRuns outstanding ∧ SendFollowsCut outstanding ∧ DaysInOrder outstanding) ∧
    SendRuns heldBack ∧ SendFollowsCut heldBack := by
  have batchOf : ∀ {x y : Batch}, some x = some y → y = x := fun h => (Option.some.inj h).symm
  refine ⟨⟨⟨fun b h => ?_, fun _ => ⟨by decide, by decide, by decide, fun h => absurd rfl h, fun h => absurd rfl h,
      fun h => absurd h (by decide), fun _ => ⟨⟨6, 6, 1⟩, 5, rfl, rfl, by decide⟩⟩⟩,
      by unfold SendFollowsCut; decide, by decide, by decide, [], [], rfl, by decide, by decide⟩,
    ⟨fun b h => ?_, fun _ => ⟨by decide, by decide, by decide, fun _ h => absurd rfl h, fun _ h => absurd rfl h,
      fun h => absurd h (by decide), fun _ => ⟨⟨6, 6, 1⟩, 1, rfl, rfl, by decide⟩⟩⟩,
    by unfold SendFollowsCut; decide⟩ <;>
  · rw [batchOf h]
    decide

theorem test_meets_SendKeepsFollowingTheCut : SendFollowsCut waiting ∧ SendFollowsCut (sendingIn .sending []) := by
  unfold SendFollowsCut; decide

theorem test_meets_ColdStart : (after .lossOfMainPower onDuty).pins.powered = false ∧
    { after .lossOfMainPower onDuty with rcm := ⟨false⟩ }.pins.powered = false ∧
    { after .lossOfMainPower onDuty with rcm := ⟨false⟩ }.rcm.matching = false := by decide

/-- An arming at a gate that a till holds shut. -/
def gated : State := { holding .opened with cut := some ⟨.awaitGate, .gate, none, false, 0, none⟩ }

theorem gated_shut : GateShut gated := fun _ _ _ => by decide

/-- A READY send that may start by itself once the part sends again. -/
def mayStart : State :=
  { sendingIn .ready [] with hos := { (sendingIn .ready []).hos with autoStart := true } }

/-- A restart by the line, by the request and by power, with RESET held or not: the ways of the statement; an arming at a shut
gate, sends of three states, and a bound job. -/
theorem test_meets_RestartWindsUpTheWork :
    ((after .resetAssert gated).pins.powered = true ∧ (after .resetAssert gated).pins.resetHeld = true ∧
      GateShut (after .resetAssert gated)) ∧
    ((after (.restart (req ⟨⟩)) onDuty).live = true ∧ (after (.restart (req ⟨⟩)) onDuty).hlc.restarting = true ∧
      NoGate (after (.restart (req ⟨⟩)) onDuty)) ∧
    ((after .lossOfMainPower onDuty).pins.powered = false ∧ (after .lossOfMainPower onDuty).rcm.matching = true ∧
      (after .lossOfMainPower onDuty).pins.resetHeld = false ∧
      (after .resetAssert (after .lossOfMainPower onDuty)).pins.resetHeld = true ∧
      (after .resetAssert (after .lossOfMainPower onDuty)).rcm.matching = true) ∧
    ((after .resetAssert mayStart).hos.state = .ready ∧ (after .resetAssert mayStart).hos.batch = some ⟨6, 6, 1⟩ ∧
      (after .resetAssert mayStart).hos.autoStart = true ∧ (after .resetAssert mayStart).pins.carrier = true ∧
      (sendingIn .sending [(1, 0)]).hos.state = .sending ∧ SendFollowsCut (sendingIn .sending [(1, 0)])) ∧
    ((serving (jobOf .printing (some 2)) .printing).pjq.jobs.filter fun j => j.printer.isSome).length = 1 ∧
    ((serving (jobOf .printing (some 2)) .printing).pjq.jobs.map (·.id)).Nodup :=
  ⟨⟨by decide, by decide, fun _ _ _ => by decide⟩, ⟨by decide, by decide, noGate_of_unarmed (by decide)⟩,
    by decide, ⟨by decide, by decide, by decide, by decide, by decide, by unfold SendFollowsCut; decide⟩, by decide, by decide⟩

/-- An arming at a gate that is met, and the same part without power and with RESET held. -/
def ripe : State := { onDuty with cut := some ⟨.awaitGate, .gate, none, false, 0, none⟩ }

def ripeInTheDark : State := after .resetAssert (after .lossOfMainPower ripe)

theorem test_meets_RestartWindsUpTheWork_cut : (RestartBy (.resetRelease ⟨false, false⟩) ⟨false, false⟩ .resetLine
      onDuty.hlc.clock (after .resetAssert ripe) ∧ (after .resetAssert ripe).gateMet = true ∧
      (after .resetAssert ripe).cut = ripe.cut ∧ DaysInOrder (after .resetAssert ripe) ∧
      SendFollowsCut (after .resetAssert ripe) ∧ (ripe.pjq.jobs.filter fun j => j.printer.isSome).length ≤ 4 ∧
      ∃ v, exec (.resetRelease ⟨false, false⟩) { after .resetAssert ripe with
        cut := some ⟨.awaitTrigger, .gate, none, false, 0, none⟩ } = .next v ∧ v.live = true) ∧
    (RestartBy (.powerOn true ⟨false, false⟩) ⟨false, false⟩ .powerOn ⟨0, 0, false⟩ ripeInTheDark ∧
      ripeInTheDark.gateMet = true ∧ ripeInTheDark.cut = ripe.cut ∧ DaysInOrder ripeInTheDark ∧ SendFollowsCut ripeInTheDark ∧
      ∃ v, exec (.powerOn true ⟨false, false⟩) { ripeInTheDark with
        cut := some ⟨.awaitTrigger, .gate, none, false, 0, none⟩ } = .next v ∧ v.live = false) :=
  ⟨⟨by unfold RestartBy; decide, by decide, rfl, ⟨by decide, (by decide : ∀ e ∈ (after .resetAssert ripe).dju.journal, e.day = 7)⟩,
      by unfold SendFollowsCut; decide, by decide, _, rfl, by decide⟩,
    by unfold RestartBy; decide, by decide, rfl, ⟨by decide, (by decide : ∀ e ∈ ripeInTheDark.dju.journal, e.day = 7)⟩,
    by unfold SendFollowsCut; decide, _, rfl, by decide⟩

/-- R165: the gate check of a restart makes the cut, and START tells of the new day. -/
theorem test_restart_makes_the_cut : (after (.resetRelease ⟨false, false⟩) (after .resetAssert ripe)).cut = none ∧
    (after (.resetRelease ⟨false, false⟩) (after .resetAssert ripe)).dayNumber = 8 ∧
    (after (.resetRelease ⟨false, false⟩) (after .resetAssert ripe)).hlc.notices.head?.map (·.notice) =
      some (.start .restart .resetLine false .opened (some 8) true .ready) := by decide

/-- R197: a power-on with RESET held sends nothing, and the release makes the restart. -/
theorem test_powerOn_with_reset_held :
    (after (.powerOn true ⟨false, false⟩) (after .resetAssert (after .lossOfMainPower onDuty))).sent = [] ∧
    (after (.resetRelease ⟨false, true⟩) (after (.powerOn true ⟨false, false⟩)
      (after .resetAssert (after .lossOfMainPower onDuty)))).hlc.startCause = .resetLine := by decide

theorem test_meets_TheWaysIntoAStart : onDuty.listening = true ∧ onDuty.pins.powered = true ∧
    (after .lossOfMainPower onDuty).pins.powered = false ∧ onDuty.pins.resetHeld = false ∧
    onDuty.hlc.restarting = false := by decide

theorem test_meets_TickAdvancesTheClock : NextSecond ⟨0, 0, false⟩ ⟨0, 0, false⟩ ∧ NextSecond ⟨86398, 1, true⟩ ⟨86399, 1, true⟩ ∧
    NextSecond ⟨86399, 65534, true⟩ ⟨0, 65535, true⟩ ∧ NextSecond ⟨86399, 65535, true⟩ ⟨0, 0, true⟩ ∧ onDuty.live = true ∧
    (after .resetAssert onDuty).pins.resetHeld = true := by unfold NextSecond; decide

/-- A part with a transfer at 2 seconds, a job that waits 2 and a printer's and an ack timer at 2. -/
def ticking : State :=
  let s := offered { moving with remaining := 2 }
  { s with
    prc := s.prc.set 2 { bound .waitingBook with timer := 2 }
    pjq := { s.pjq with jobs := [{ jobOf .started (some 2) with wait := some 2 }] }
    hos := { s.hos with ackTimer := some 2 } }

theorem test_meets_QuietTickLowersTheTimers : ticking.live = true ∧ ticking.cut = none ∧
    (∀ x ∈ ticking.tlu.transfers, 2 ≤ x.remaining) ∧
    (∀ (st : Station) (o : SignOn) (g : Nat), ticking.presence st = .lost o g → 2 ≤ g) ∧
    (∀ j ∈ ticking.pjq.jobs, ∀ w : Nat, j.wait = some w → 2 ≤ w) ∧
    (∀ p : Printer, (ticking.printer p).device ≠ .fault → 2 ≤ (ticking.printer p).timer) ∧
    (∀ n : Nat, ticking.hos.ackTimer = some n → 2 ≤ n) ∧ (∀ n : Nat, ticking.hos.test.echoTimer = some n → 2 ≤ n) ∧
    ∀ n : Nat, ticking.hos.holdTimer = some n → 2 ≤ n := by
  refine ⟨by decide, by decide, by decide, ?_, ?_, by decide, ?_, ?_, ?_⟩
  · intro st o g h
    have away : ∀ x : Station, (ticking.presence x).code ≠ 4 := by decide
    exact absurd (congrArg Presence.code h) (away st)
  · intro j member w h
    have only : j = { jobOf .started (some 2) with wait := some 2 } := List.mem_singleton.mp member
    subst only
    cases h
    decide
  · intro n h
    cases h
    decide
  · intro n h; cases h
  · intro n h; cases h

/-- An arming that awaits its trigger at another second, and one at a shut gate, leave a tick quiet. -/
theorem test_meets_QuietTick_armed : (some 86399 : Option Nat) ≠ some 5 ∧ gated.cut.map (·.state) = some .awaitGate ∧
    NextSecond ⟨4, 0, true⟩ ⟨5, 0, true⟩ := by unfold NextSecond; decide

/-- The run-outs of one tick: of a transfer, of a job's wait, of a printer out of service and of one at work, and the trigger of
the cut. -/
def atTrigger : State :=
  { onDuty with
    cut := some ⟨.awaitTrigger, .atTime, some 86399, true, 0, none⟩
    hlc := { onDuty.hlc with clock := ⟨86398, 0, true⟩ } }

theorem test_meets_QuietTick_due : dueRows ⟨0, 0, false⟩ (offered moving) = [.transferExpiry 3] ∧
    dueRows ⟨0, 0, false⟩ (offered { moving with remaining := 0, waiting := true }) = [.transferReturnRetry 3] ∧
    dueRows ⟨0, 0, false⟩ (serving { jobOf .started (some 2) with wait := some 1 } .waitingBook) = [.jobWaitTimeout 4] ∧
    dueRows ⟨0, 0, false⟩ (onDuty.setPrinter 3 { PrinterRec.cold with timer := 1 }) = [.offlineClearInterval 3] ∧
    dueRows ⟨0, 0, false⟩ (onDuty.setPrinter 3 { PrinterRec.cold with device := .idle, timer := 1 }) = [.probeTimerRunout 3] ∧
    dueRows ⟨0, 0, false⟩ (onDuty.setPresence 0 (.lost (operator .teller none) 1)) = [.graceExpiry 0] ∧
    dueRows ⟨0, 0, false⟩ { outstanding with hos := { outstanding.hos with ackTimer := some 1 } } = [.ackTimeout] ∧
    dueRows ⟨0, 0, false⟩ { heldBack with hos := { heldBack.hos with holdTimer := some 1 } } = [.holdTimeout] ∧
    dueRows ⟨0, 0, false⟩ { after (.sendStart (req ⟨⟩)) (sendingIn .ready []) with
      hos.test.echoTimer := some 1 } = [.echoTimeout] ∧
    dueRows ⟨86399, 0, true⟩ atTrigger = [.cutTrigger] := by decide

/-- The hypotheses of a due row beside it: the timers run, the ids differ. -/
theorem test_meets_QuietTick_notDue : Instr.ackTimeout.isRunOut = true ∧ .ackTimeout ∉ dueRows ⟨0, 0, false⟩ waiting ∧
    .graceExpiry 3 ∉ dueRows ⟨0, 0, false⟩ waiting ∧ waiting.live = true ∧ (waiting.tlu.transfers.map (·.id)).Nodup ∧
    (waiting.pjq.jobs.map (·.id)).Nodup ∧ NextSecond waiting.hlc.clock ⟨0, 0, false⟩ := by
  unfold NextSecond
  decide

theorem test_meets_QuietTick_due_timers : (TimersRun (offered moving) ∧ SendRuns (offered moving)) ∧
    (TimersRun atTrigger ∧ SendRuns atTrigger) ∧ ((offered moving).tlu.transfers.map (·.id)).Nodup ∧
    ((serving { jobOf .started (some 2) with wait := some 1 } .waitingBook).pjq.jobs.map (·.id)).Nodup ∧ atTrigger.live = true ∧
    NextSecond atTrigger.hlc.clock ⟨86399, 0, true⟩ :=
  ⟨⟨timersRun_of (by decide) (by decide) (by decide) (by decide) (by decide), sendRuns_of_idle (by decide)⟩,
    ⟨timersRun_of (by decide) (by decide) (by decide) (by decide) (by decide), sendRuns_of_idle (by decide)⟩,
    by decide, by decide, by decide, by unfold NextSecond; decide⟩

theorem test_meets_TimeSetSetsTheClock : onDuty.listening = true ∧
    ∀ a, onDuty.cut = some a → a.state = .awaitTrigger → a.trigger ≠ some 86399 :=
  ⟨by decide, fun _ h => nomatch h⟩

theorem test_meets_DenomSetReplacesTheTable : begun.dayState ≠ .unset ∧ State.reset.dayState = .unset ∧
    (∀ d : Denom, (d.val, faces[d]) ∈ facePairs) ∧ (∀ d : Denom, 1 ≤ faces[d] ∧ faces[d] ≤ 100000) ∧
    (∀ d e : Denom, d ≠ e → faces[d] ≠ faces[e]) ∧ facePairs.length = 10 ∧ begun.listening = true ∧
    State.reset.listening = true := by decide

/-- A list of nine pairs names no ten denominations: the clause of BAD_FIELD. -/
theorem test_meets_DenomSet_badField : ¬ ∃ faces : Counts, (facePairs.drop 1).length = 10 ∧
    (∀ d : Denom, (d.val, faces[d]) ∈ facePairs.drop 1) ∧ (∀ d : Denom, 1 ≤ faces[d] ∧ faces[d] ≤ 100000) ∧
    ∀ d e : Denom, d ≠ e → faces[d] ≠ faces[e] := by
  rintro ⟨_, length, -⟩
  exact absurd length (by decide)

theorem test_meets_OpeningSetAndDayBegin : priced.listening = true ∧ priced.dayState = .unset ∧ (pairsOf 65535).length = 10 ∧
    (∀ d : Denom, (d.val, (Vector.replicate 10 65535 : Counts)[d]) ∈ pairsOf 65535) ∧ branch.length = 6 ∧
    (∀ b ∈ branch, 0x30 ≤ b.toNat ∧ b.toNat ≤ 0x39) ∧ priced.tlu.denoms.isSome = true := by decide

theorem test_meets_JournalReadReturnsTheRun : posted.listening = true ∧ JournalRuns posted ∧ (posted.entry? 1).isSome = true ∧
    posted.dju.nextSeq = 2 ∧ posted.dju.journal.filter (fun e => 1 ≤ e.seq) = [paid] ∧
    posted.dju.journal.filter (fun e => 2 ≤ e.seq) = [] :=
  ⟨by decide, posted_runs, by decide, by decide, by decide, by decide⟩

theorem test_meets_StatusRequests : onDuty.listening = true := by decide

/-- A teller at a closed till; a supervisor at the strongroom and at a lapsed till. -/
theorem test_meets_TakeTill : onDuty.listening = true ∧ onDuty.dayState ≠ .unset ∧
    onDuty.presence 0 = .signedOn (operator .teller none) ∧ (onDuty.till 12).state = .closed ∧
    ¬ ((12 : Till) = 0 ∨ (onDuty.till 12).state = .lapsed) ∧
    (onDuty.setPresence 0 (.signedOn (operator .supervisor none))).presence 0 = .signedOn (operator .supervisor none) ∧
    (onDuty.till 0).state = .closed ∧ ((holding .lapsed).till 1).state = .lapsed := by
  decide

/-- A take while a STATUS frame is out to the station: the slot holds the new full set, and the frame knows that it was filled
again. -/
theorem test_take_fills_the_slot : ((after (.takeTill (req ⟨1, 1⟩)) { onDuty with slc := { onDuty.slc with
      slot := some ⟨0, .status (onDuty.statusSet 0), false, false, false⟩ } }).line 0).slot =
        some { indicators := 1#8, setup := (onDuty.station 0).setup } ∧
    (after (.takeTill (req ⟨1, 1⟩)) { onDuty with slc := { onDuty.slc with
      slot := some ⟨0, .status (onDuty.statusSet 0), false, false, false⟩ } }).slc.slot.map (·.refilled) = some true := by decide

theorem test_meets_ReleaseTill : (holding .balanced).listening = true ∧
    (holding .balanced).presence 0 = .signedOn (operator .teller (some 1)) ∧ ((holding .balanced).till 1).holder = some 0 ∧
    ((holding .balanced).till 1).state = .balanced ∧ NoGate (holding .balanced) :=
  ⟨by decide, by decide, by decide, by decide, noGate_of_unarmed (by decide)⟩

/-- POST: a CASH_IN up to the highest count, a CASH_OUT down to none, and the strongroom's kinds. -/
theorem test_meets_Post : (holding .opened).listening = true ∧ (holding .opened).dayState ≠ .unset ∧
    (holding .opened).presence 0 = .signedOn (operator .teller (some 1)) ∧ ((holding .opened).till 1).state = .opened ∧
    postKind? 1 = some .cashIn ∧ postKind? 2 = some .cashOut ∧ postKind? 3 = some .delivery ∧
    postKind? 4 = some .cashReturn ∧ breakdown? [(9, 65530)] = some [(9, 65530)] ∧ breakdown? [(9, 5)] = some [(9, 5)] ∧
    (∀ d : Denom, ((holding .opened).till 1).counts[d] + countOf [(9, 65530)] d ≤ 65535) ∧
    (∀ d : Denom, countOf [(9, 5)] d ≤ ((holding .opened).till 1).counts[d]) ∧ accountOk .cashIn (some [0x41]) = true ∧
    ((holding .opened).monitor 1).enforces .high = false ∧ ((holding .opened).monitor 1).enforces .low = false ∧
    321 ≤ (holding .opened).free ∧ (holding .opened).dju.nextSeq ≤ 4294967295 := by decide

theorem test_meets_Void : posted.listening = true ∧ posted.dayState ≠ .unset ∧
    posted.presence 0 = .signedOn (operator .teller (some 1)) ∧ JournalRuns posted ∧ paid ∈ posted.dju.journal ∧
    paid.status = .live ∧ paid.day = posted.dayNumber ∧ paid.station = 0 ∧ (posted.till paid.till).state = .opened ∧
    posted.inFlight paid = false ∧ paid.breakdown = some [(9, 1)] ∧
    (∀ d : Denom, (posted.till paid.till).counts[d] + countOf (plainPairs [(9, 1)]) d ≤ 65535) ∧ 321 ≤ posted.free ∧
    posted.dju.nextSeq ≤ 4294967295 ∧
    ∀ d : Denom, countOf (plainPairs [(9, 5)]) d ≤ (posted.till { paid with kind := .cashIn }.till).counts[d] :=
  ⟨by decide, by decide, by decide, posted_runs, by decide, by decide, by decide, by decide, by decide,
    by decide, by decide, by decide, by decide, by decide, by decide⟩

/-- A target PENDING in the passbook, on a line that waits. -/
def awaited : State :=
  { withJob posted { jobOf .queued none with lines := [⟨[0x41], some ⟨1, 1, 7⟩, .waiting, none, none⟩] } with
    dju := { posted.dju with journal := [{ paid with passbook := .pending }] } }

theorem test_meets_Void_pending : { paid with passbook := .pending } ∈ awaited.dju.journal ∧
    awaited.inFlight { paid with passbook := .pending } = false ∧ awaited.listening = true ∧ 321 ≤ awaited.free ∧
    (awaited.skipLines 1).pjq ≠ awaited.pjq := by decide

/-- R17: a journal of 641 free entries, the low mark clear. -/
def nearlyLow : State := { holding .opened with
  dju := { (holding .opened).dju with journal := List.replicate 3455 paid, nextSeq := 3456 } }

theorem test_meets_JournalGrows_low : nearlyLow.free = 641 ∧ nearlyLow.dju.lowMark = false ∧
    nearlyLow.hlc.notices.length < 32 := by
  refine ⟨?_, by decide, by decide⟩
  show 4096 - (List.replicate 3455 paid).length = 641
  rw [List.length_replicate]

theorem test_meets_Counts : (holding .opened).listening = true ∧
    (holding .opened).presence 0 = .signedOn (operator .teller (some 1)) ∧ ((holding .opened).till 1).holder = some 0 ∧
    ((holding .opened).till 1).state = .opened ∧
    (∀ x ∈ ((holding .opened).setTransfers [{ moving with destination := 3 }]).tlu.transfers, x.source ≠ 1 ∧ x.destination ≠ 1) ∧
    (holding .counting).listening = true ∧ ((holding .counting).till 1).holder = some 0 ∧
    ((holding .counting).till 1).state = .counting ∧
    (holding .counting).presence 0 = .signedOn (operator .teller (some 1)) := by decide

/-- COUNT DECLARE with the book counts and with others. -/
theorem test_meets_CountDeclare : (holding .counting).listening = true ∧
    (holding .counting).presence 0 = .signedOn (operator .teller (some 1)) ∧ ((holding .counting).till 1).holder = some 0 ∧
    ((holding .counting).till 1).state = .counting ∧
    ((holding .counting).till 1).count = some { book := five, station := 0, time := 0 } ∧
    (pairsOf 5).length = 10 ∧ (∀ d : Denom, (d.val, five[d]) ∈ pairsOf 5) ∧ (∀ d : Denom, five[d] ≤ 65535) ∧
    (pairsOf 65535).length = 10 ∧ (∀ d : Denom, (d.val, (Vector.replicate 10 65535 : Counts)[d]) ∈ pairsOf 65535) ∧
    1 ≤ (holding .counting).free ∧ (holding .counting).dju.nextSeq ≤ 4294967295 ∧ NoGate (holding .counting) :=
  ⟨by decide, by decide, by decide, by decide, by decide, by decide, by decide, by decide, by decide, by decide, by decide,
    by decide, noGate_of_unarmed (by decide)⟩

theorem test_meets_TransferOffer : (holding .opened).listening = true ∧ (holding .opened).dayState ≠ .unset ∧
    (holding .opened).presence 0 = .signedOn (operator .teller (some 1)) ∧ ((holding .opened).till 1).state = .opened ∧
    (2 : Till) ≠ 1 ∧ ((holding .opened).till 2).state ≠ .counting ∧ (holding .opened).tlu.transfers.length < 8 ∧
    breakdown? [(9, 5), (0, 1)] = some [(0, 1), (9, 5)] ∧
    (∀ d : Denom, countOf [(0, 1), (9, 5)] d ≤ ((holding .opened).till 1).counts[d]) ∧
    ((holding .opened).monitor 1).enforces .low = false ∧ 321 ≤ (holding .opened).free ∧
    (holding .opened).dju.nextSeq ≤ 4294967295 := by decide

theorem test_meets_TransfersAreAcceptedOrRejected : (offered moving).listening = true ∧
    (offered moving).transfer? 3 = some moving ∧ 1 ≤ moving.id ∧ moving.id ≤ 255 ∧ moving.waiting = false ∧
    (offered moving).presence 0 = .signedOn (operator .teller (some moving.destination)) ∧
    ((offered moving).till moving.destination).state = .opened ∧
    ((offered moving).monitor moving.destination).enforces .high = false ∧
    (∀ d : Denom, ((offered moving).till 1).counts[d] + countOf moving.breakdown d ≤ 65535) ∧
    (∀ d : Denom, ((offered moving).till 2).counts[d] + countOf moving.breakdown d ≤ 65535) ∧ 1 ≤ (offered moving).free ∧
    (offered moving).dju.nextSeq ≤ 4294967295 ∧ NoGate (offered moving) :=
  ⟨by decide, by decide, by decide, by decide, by decide, by decide, by decide, by decide, by decide, by decide, by decide,
    by decide, noGate_of_unarmed (by decide)⟩

/-- A return that the source takes, and one that would bring a count above 65535. -/
theorem test_meets_ExpiredTransfers : (offered moving).live = true ∧ (offered moving).transfer? 3 = some moving ∧
    moving.remaining = 1 ∧ NoGate (offered moving) ∧ (offered moving).canReturn moving = true ∧
    (offered { moving with breakdown := [(9, 65531)] }).canReturn { moving with breakdown := [(9, 65531)] } = false ∧
    (offered { moving with waiting := true, remaining := 0 }).transfer? 3 =
      some { moving with waiting := true, remaining := 0 } :=
  ⟨by decide, by decide, by decide, noGate_of_unarmed (by decide), by decide, by decide, by decide⟩

/-- A part whose journal is full. -/
def fullJournal : State :=
  { offered moving with dju := { (offered moving).dju with journal := List.replicate 4096 paid, nextSeq := 4097 } }

theorem fullJournal_free : fullJournal.free = 0 := by
  show 4096 - (List.replicate 4096 paid).length = 0
  rw [List.length_replicate]

theorem test_meets_ExpiredTransfers_full : fullJournal.live = true ∧ fullJournal.transfer? 3 = some moving ∧
    NoGate fullJournal ∧ fullJournal.canReturn moving = false := by
  refine ⟨by decide, by decide, noGate_of_unarmed (by decide), ?_⟩
  have none' : fullJournal.marginRoom = false := by
    show (decide (1 ≤ fullJournal.free) && !fullJournal.exhausted) = false
    rw [fullJournal_free]
    rfl
  show (_ && fullJournal.marginRoom) = false
  rw [none', Bool.and_false]

theorem test_meets_LimitSet : (holding .counting).listening = true ∧ ((holding .counting).till 1).state = .counting ∧
    (holding .opened).listening = true ∧ ((holding .opened).till 1).state ≠ .counting := by decide

theorem test_meets_LimitArmAndClear : begun.listening = true ∧
    (begun.setMonitor 1 (watch .off 0 none)).monitor 1 = watch .off 0 none ∧ 1 ≤ (watch .off 0 none).limits.filter ∧
    begun.monitor 1 = Monitor.cold ∧ Monitor.cold.state = .off ∧ Monitor.cold.limits.filter = 0 ∧
    (begun.setMonitor 1 (watch .watching 1 (some .low))).monitor 1 = watch .watching 1 (some .low) ∧
    ((holding .opened).setMonitor 1 (watch (.tripped .high) 2 (some .high))).monitor 1 = watch (.tripped .high) 2 (some .high) ∧
    ((holding .opened).till 1).holder = some 0 ∧ (holding .opened).held 0 = some 1 ∧
    ((holding .opened).setMonitor 1 (watch (.tripped .low) 2 (some .low))).monitor 1 = watch (.tripped .low) 2 (some .low) := by
  decide

/-- Till 1 at its five of each stands above the upper limit 20; a streak of one in that direction trips at F = 2, and one in
the other does not; an empty till stands below, and 10 and 20 lie within. -/
theorem test_meets_StreaksTripTheMonitor : begun.tillValue 1 = some 444005 ∧
    (begun.setCounts 1 (Vector.replicate 10 0)).tillValue 1 = some 0 ∧
    (begun.setCounts 1 #v[0, 0, 0, 0, 0, 0, 0, 0, 0, 10]).tillValue 1 = some 10 ∧
    (begun.setCounts 1 #v[0, 0, 0, 0, 0, 0, 0, 0, 0, 20]).tillValue 1 = some 20 ∧
    (watch .watching 1 (some .high)).streak + 1 = (watch .watching 1 (some .high)).limits.filter ∧
    (begun.setMonitor 1 (watch .watching 1 (some .high))).monitor 1 = watch .watching 1 (some .high) ∧
    (begun.monitor 1).state ≠ .watching ∧ State.reset.tillValue 1 = none ∧ (holding .opened).held 0 = some 1 := by decide

theorem test_meets_SignOn : (begun.setPresence 11 .present).presence 11 = .present ∧ begun.listening = true ∧
    (∀ b ∈ ([0x41] : Text), inCharset (begun.station 11).setup.charset b = true) ∧
    (begun.line 11).test.running = false ∧ begun.presence 11 = .vacant ∧ (onDuty.signOn? 0).isSome = true ∧
    (after (.lineTestStart (req ⟨stationNo 11⟩)) (begun.setPresence 11 .present)).presence 11 = .present ∧
    ((after (.lineTestStart (req ⟨stationNo 11⟩)) (begun.setPresence 11 .present)).line 11).test.running = true ∧
    ¬ (1 ≤ ([] : Text).length) := by decide

theorem test_meets_SignOff : onDuty.listening = true ∧ onDuty.signOn? 0 = some (operator .teller none) ∧
    (onDuty.setPresence 0 (.lost (operator .teller none) 600)).signOn? 0 = some (operator .teller none) ∧
    (∀ x ∈ (onDuty.setTransfers [{ moving with offeredTo := none }]).tlu.transfers, x.offeredTo ≠ some 0) ∧
    (∀ j ∈ (withJob onDuty (jobOf .done none)).pjq.jobs, j.station = 0 →
      j.state = .done ∨ j.state = .failed ∨ j.state = .cancelled) := by decide

theorem test_meets_StationSetup : onDuty.signOn? 0 ≠ none ∧ onDuty.signOn? 1 = none ∧ onDuty.listening = true := by decide

/-- An update that ends at the last column of the last row, at a full queue's last place. -/
theorem test_meets_Display : onDuty.listening = true ∧ onDuty.presence 0 = .signedOn (operator .teller none) ∧
    (begun.setPresence 11 .present).presence 11 = .present ∧ (onDuty.station 0).setup = ⟨25, 80, 0, 0xFF⟩ ∧
    79 + ([0x20, 0x7E] : Text).length ≤ (onDuty.station 0).setup.columns + 1 ∧
    ((onDuty.setLine 0 { onDuty.line 0 with output := List.replicate 7 ⟨1, 1, 0, [0x41]⟩ }).line 0).output.length < 8 ∧
    (∀ b ∈ ([0x20, 0x7E] : Text), inCharset 0 b = true) := by decide

theorem test_meets_ReadInput : onDuty.listening = true ∧ (onDuty.line 0).input = [] := by decide

/-- A part whose slot in progress carries a TEST frame to station 1, under test. -/
def underTest : State :=
  let s := begun.setPresence 0 .present
  let t := s.setLine 0 { s.line 0 with test := { LineTest.cold with running := true } }
  { t with slc := { t.slc with slot := some ⟨0, .test (List.replicate 16 0), false, false, false⟩ } }

theorem test_meets_LineTests : (begun.setPresence 11 .present).listening = true ∧
    InScan (begun.setPresence 11 .present).slc.first (begun.setPresence 11 .present).slc.last 11 ∧
    (begun.setPresence 11 .present).presence 11 = .present ∧
    ((begun.setPresence 11 .present).line 11).test.running = false ∧ underTest.listening = true ∧
    (underTest.line 0).test.running = true ∧
    underTest.slc.slot = some ⟨0, .test (List.replicate 16 0), false, false, false⟩ ∧ underTest.countedPresent 0 = true ∧
    (List.replicate 16 (0 : Byte)).length = 16 := by
  unfold InScan; decide

/-- The three answers to a TEST frame: none in time, a reply without an echo, an echo. -/
theorem test_meets_LineTests_replies : (⟨1, false, .nothing⟩ : ScreenReply).station = stationNo 0 ∧
    (∀ back, (⟨1, false, .nothing⟩ : ScreenReply).content ≠ .echo back) ∧
    (after (.screenReply ⟨1, false, .nothing⟩) underTest).line 0 =
      { underTest.line 0 with test := ⟨true, 1, 16, true, true, 0x7FFF#15⟩ } :=
  ⟨by decide, fun _ h => (nomatch h), by decide⟩

/-- Both forms of a scan range, one station wide and wrapping. -/
theorem test_meets_ScanSet : onDuty.listening = true ∧
    (∀ x : Station, ¬ InScan 0 0 x → onDuty.signOn? x = none ∧ (onDuty.line x).test.running = false) ∧
    (∀ x : Station, ¬ InScan 11 0 x → onDuty.signOn? x = none ∧ (onDuty.line x).test.running = false) ∧
    (onDuty.setPresence 5 .present).presence 5 = .present ∧ ¬ InScan 11 0 5 := by
  unfold InScan; decide

/-- R100: the slot of a VACANT station that the new range leaves out is dropped, and its reply brings no screen. -/
theorem test_scanSet_drops_the_slot : (after (.scanSet (req ⟨2, 3⟩)) begun).slc.slot.map (·.dropped) = some true ∧
    (after (.scanSet (req ⟨2, 3⟩)) begun).live = true ∧
    (after (.screenReply ⟨1, false, .nothing⟩) (after (.scanSet (req ⟨2, 3⟩)) begun)).presence 0 = .vacant := by decide

/-- A working part with another slot in progress. -/
def withSlot (sl : Slot) : State := { onDuty with slc := { onDuty.slc with slot := some sl } }

theorem test_meets_MissedReplies : onDuty.live = true ∧
    onDuty.slc.slot = some ⟨0, .poll, false, false, false⟩ ∧ (onDuty.line 0).test.running = false ∧
    onDuty.countedPresent 0 = true ∧ (onDuty.line 0).misses < 2 ∧
    2 ≤ ((onDuty.setLine 0 { onDuty.line 0 with misses := 2 }).line 0).misses ∧ begun.countedPresent 0 = false ∧
    (withSlot ⟨0, .poll, false, true, false⟩).slc.slot = some ⟨0, .poll, false, true, false⟩ ∧
    ((begun.setPresence 11 .present).setTest 11 { LineTest.cold with running := true }).countedPresent 11 = true ∧
    (after .lossOfMainPower onDuty).slc.slot = none := by decide

/-- A miss in round 1: the VACANT stations are passed over to the end of the walk, and the one station signed on is served in
round 2, its full status set first. -/
theorem test_next_slot : ((after .slotReplyTimeout { onDuty.fillSlot 0 with slc := { (onDuty.fillSlot 0).slc with
      round := 1, walk := [5, 11] } }).slc.round,
    (after .slotReplyTimeout { onDuty.fillSlot 0 with slc := { (onDuty.fillSlot 0).slc with round := 1, walk := [5, 11] } }).sent) =
      (2, [.screen 0 (.status (onDuty.statusSet 0)) .none]) := by decide

theorem test_meets_Replies : onDuty.live = true ∧ onDuty.slc.slot = some ⟨0, .poll, false, false, false⟩ ∧
    stationNo 0 = 1 ∧ onDuty.countedPresent 0 = true ∧ (onDuty.line 0).test.running = false ∧
    (onDuty.line 0).lastBit ≠ some true ∧ (onDuty.line 0).input.length < 16 ∧
    16 ≤ ((onDuty.setLine 0 { onDuty.line 0 with input := List.replicate 16 ⟨.key, [], 0⟩ }).line 0).input.length ∧
    ((onDuty.setLine 0 { onDuty.line 0 with lastBit := some true }).line 0).lastBit = some true ∧
    (after .lossOfMainPower onDuty).slc.slot = none ∧ stationNo 1 ≠ stationNo 0 ∧
    (withSlot ⟨0, .test [], false, false, true⟩).slc.slot = some ⟨0, .test [], false, false, true⟩ := by decide

/-- A screen found at a VACANT station, and that of a LOST one. -/
theorem test_meets_RepliesBringScreensBack : begun.live = true ∧ begun.slc.slot = some ⟨0, .poll, false, false, false⟩ ∧
    begun.countedPresent 0 = false ∧ (begun.line 0).lastBit ≠ some true ∧ (begun.line 0).input = [] ∧
    (begun.setPresence 0 (.lost (operator .teller none) 1)).countedPresent 0 = false := by decide

theorem test_meets_PrintersAreAssigned : onDuty.listening = true ∧ (onDuty.printer 3).bound = none ∧
    Owner.code (.station 11) = 12 ∧ Owner.code .pool = 0 := by decide

/-- A printer ready to pick, with a job it may serve first in the table and behind one that another printer alone may
serve; one that is held, and one that may serve none. -/
theorem test_meets_PickTurn : twoWaiting.readyToPick 2 = true ∧
    twoWaiting.pjq.jobs = [] ++ { jobOf .queued none with id := 5 } :: [jobOf .queued none] ∧
    twoWaiting.mayServe 2 { jobOf .queued none with id := 5 } = true ∧
    (twoWaiting.setPrinter 1 { PrinterRec.cold with owner := .station 3 }).mayServe 2 { jobOf .queued none with station := 3 } =
      false ∧ (twoWaiting.setPrinter 1 { PrinterRec.cold with owner := .station 3 }).mayServe 2 (jobOf .queued none) = true ∧
    (twoWaiting.setPrinter 2 { PrinterRec.cold with device := .idle, hold := true }).readyToPick 2 = false ∧
    (twoWaiting.setPrinter 2 { PrinterRec.cold with device := .idle, owner := .station 3 }).mayServe 2 (jobOf .queued none) =
      false := by decide

theorem test_meets_PrinterMessages : onDuty.live = true ∧ (onDuty.printer 2).device = .offline ∧
    (serving (jobOf .printing (some 2)) .printing).live = true ∧
    ((serving (jobOf .printing (some 2)) .printing).printer 2).device.working = true ∧
    BindingsAgree (serving (jobOf .printing (some 2)) .printing) ∧
    ((serving (jobOf .printing (some 2)) .printing).printer 2).bound = some (jobOf .printing (some 2)).id ∧
    (serving (jobOf .printing (some 2)) .printing).job? 4 = some (jobOf .printing (some 2)) ∧
    0 < ((onDuty.setPrinter 2 { PrinterRec.cold with device := .idle, clears := 1 }).printer 2).clears ∧
    ((onDuty.setPrinter 2 { PrinterRec.cold with device := .fault }).printer 2).device = .fault :=
  ⟨by decide, by decide, by decide, by decide, by unfold BindingsAgree; decide, by decide, by decide, by decide, by decide⟩

/-- READY that comes unasked: at an idle printer and at a busy one. -/
theorem test_meets_PrinterMessages_ready :
    ((onDuty.setPrinter 2 { PrinterRec.cold with device := .idle }).printer 2).device = .idle ∧
    { PrinterRec.cold with device := .idle }.clears = 0 ∧ (bound .printing).clears = 0 ∧
    ((serving (jobOf .printing (some 2)) .printing).printer 2).device = .printing ∧
    (jobOf .printing (some 2)).printer = some 2 := by decide

/-- Printer 2 at work on job 4, one second before its third missed probe. -/
def dying : State :=
  (serving (jobOf .printing (some 2)) .printing).setPrinter 2 { bound .printing with timer := 1, probing := true, misses := 2 }

theorem test_meets_ProbesAndClears :
    ((onDuty.setPrinter 2 { PrinterRec.cold with device := .fault }).printer 2).device = .fault ∧ onDuty.listening = true ∧
    ((onDuty.setPrinter 2 { PrinterRec.cold with timer := 1 }).printer 2).device = .offline ∧ onDuty.live = true ∧
    { bound .printing with timer := 1, probing := true, misses := 1 }.misses < 2 ∧ dying.live = true ∧
    (dying.printer 2).device.working = true ∧ (dying.printer 2).timer = 1 ∧ (dying.printer 2).probing = true ∧
    2 ≤ (dying.printer 2).misses ∧ BindingsAgree dying ∧ (dying.printer 2).bound = some (jobOf .printing (some 2)).id ∧
    dying.job? 4 = some (jobOf .printing (some 2)) :=
  ⟨by decide, by decide, by decide, by decide, by decide, by decide, by decide, by decide, by decide, by decide,
    by unfold BindingsAgree; decide, by decide, by decide⟩

/-- An IDLE printer one second before its third missed probe: no job of the table is touched. -/
theorem test_meets_ProbesAndClears_idle : BindingsAgree (onDuty.setPrinter 2 { PrinterRec.cold with
      device := .idle, timer := 1, probing := true, misses := 2 }) ∧ { PrinterRec.cold with device := .idle }.bound = none :=
  ⟨by unfold BindingsAgree; decide, by decide⟩

/-- A full table with a finished job at its head. -/
def fullTable : List Job :=
  { jobOf .done none with id := 1 } :: (List.range 23).map fun n => { jobOf .queued none with id := n + 2 }

/-- Two lines, the first reporting the posting journalled. -/
def twoLines : List SubmitLine := [⟨[0x41], some 1⟩, ⟨[0x42], none⟩]

theorem test_meets_PrintSubmit : posted.listening = true ∧ posted.dayState ≠ .unset ∧
    posted.presence 0 = .signedOn (operator .teller (some 1)) ∧ (List.replicate 12 (0x31 : Byte)).length = 12 ∧
    (∀ b ∈ List.replicate 12 (0x31 : Byte), 0x20 ≤ b.toNat ∧ b.toNat ≤ 0x7E) ∧
    (∀ l ∈ twoLines, 1 ≤ l.text.length ∧ l.text.length ≤ 40 ∧
      (∀ b ∈ l.text, inCharset (posted.station 0).setup.charset b = true) ∧ (l.seq = some 1 ∨ l.seq = none)) ∧
    posted.entry? 1 = some paid ∧ paid.kind = .cashOut ∧ paid.status = .live ∧ paid.passbook = .none ∧
    (twoLines.filterMap (·.seq)).Nodup ∧ posted.pjq.jobs.length < 24 ∧ fullTable.length = 24 ∧
    (∃ j ∈ fullTable, j.state.unfinished = false) ∧ (∀ p : Printer, posted.readyToPick p = false) := by decide

theorem test_meets_JobsAreCancelledAndReported : (withJob onDuty (jobOf .queued none)).listening = true ∧
    1 ≤ (jobOf .queued none).id ∧ (jobOf .queued none).id ≤ 255 ∧
    (withJob onDuty (jobOf .queued none)).job? 4 = some (jobOf .queued none) ∧
    (serving (jobOf .started (some 2)) .waitingBook).job? 4 = some (jobOf .started (some 2)) ∧
    (serving (jobOf .pageTurn (some 2)) .pageTurn).job? 4 = some (jobOf .pageTurn (some 2)) ∧
    (serving (jobOf .printing (some 2)) .printing).job? 4 = some (jobOf .printing (some 2)) ∧
    ((serving (jobOf .started (some 2)) .waitingBook).printer 2).device.working = true ∧
    (withJob onDuty (jobOf .failed none)).job? 4 = some (jobOf .failed none) := by decide

/-- Printer 2 at the first of two lines of job 4, the first of them SENT. -/
def atLine : Job :=
  { jobOf .printing (some 2) with
    lines := [⟨[0x41], some ⟨1, 1, 7⟩, .sent, none, none⟩, ⟨[0x42], none, .waiting, none, none⟩], place := some ⟨32, some 23⟩ }

theorem test_meets_BooksAndLines :
    (onDuty.setPrinter 2 { PrinterRec.cold with device := .idle }).live = true ∧
    ((onDuty.setPrinter 2 { PrinterRec.cold with device := .idle }).printer 2).device = .idle ∧
    ((serving (jobOf .started (some 2)) .waitingBook).printer 2).device ≠ .idle ∧
    ((serving (jobOf .started (some 2)) .waitingBook).printer 2).device.working = true ∧
    ((serving (jobOf .started (some 2)) .waitingBook).printer 2).bound = some (jobOf .started (some 2)).id ∧
    ((serving (jobOf .started (some 2)) .waitingBook).printer 2).wrongBooks < 2 ∧
    (serving (jobOf .started (some 2)) .waitingBook).job? 4 = some (jobOf .started (some 2)) ∧
    nextWaiting (jobOf .started (some 2)).lines 1 = some 1 ∧
    (jobOf .started (some 2)).lines[0]? = some ⟨[0x41], none, .waiting, none, none⟩ ∧
    onDuty.lateLine ⟨[0x41], none, .waiting, none, none⟩ = none ∧ (serving atLine .printing).job? 4 = some atLine ∧
    atLine.sentLine = some (0, ⟨[0x41], some ⟨1, 1, 7⟩, .sent, none, none⟩) ∧ atLine.place = some ⟨32, some 23⟩ ∧
    nextWaiting (atLine.lines.set 0 ⟨[0x41], some ⟨1, 1, 7⟩, .printed, none, some (32, 23)⟩) 1 = some 2 ∧
    onDuty.lateLine ⟨[0x41], some ⟨1, 1, 7⟩, .sent, none, none⟩ = none ∧
    (serving { atLine with place := some ⟨31, some 24⟩ } .printing).job? 4 = some { atLine with place := some ⟨31, some 24⟩ } ∧
    nextWaiting (atLine.lines.map JobLine.unsent) 1 ≠ none := by
  decide

/-- Job 4 at its page turn, and at its last line, late, with its cancel asked. -/
def turning : Job := { jobOf .pageTurn (some 2) with place := some ⟨32, some 1⟩, wait := some 180 }

def lastLine : Job :=
  { jobOf .printing (some 2) with
    lines := [⟨[0x41], some ⟨1, 1, 6⟩, .sent, none, none⟩], place := some ⟨31, some 24⟩, cancelPending := true }

/-- The page turn's book on its page and on another, and a third wrong book. -/
theorem test_meets_BooksAndLines_turn : ((serving turning .pageTurn).printer 2).bound = some turning.id ∧
    ((serving turning .pageTurn).printer 2).device.working = true ∧ (serving turning .pageTurn).live = true ∧
    (serving turning .pageTurn).job? 4 = some turning ∧ turning.place.map (·.page) = some 32 ∧
    turning.place.map (·.page) ≠ some 1 ∧ turning.printer = some 2 ∧ List.replicate 12 0x20 ≠ turning.book ∧
    2 ≤ (((serving turning .pageTurn).setPrinter 2 { bound .pageTurn with wrongBooks := 2 }).printer 2).wrongBooks ∧
    nextWaiting [⟨[0x41], none, .skipped, none, none⟩] 1 = none := by decide

/-- A late line with room for its note and with none; a page that ends with its last line, with lines left on page 31 and on
page 32, and with none; a cancel asked for. -/
theorem test_meets_BooksAndLines_follow : (serving lastLine .printing).job? 4 = some lastLine ∧
    lastLine.sentLine = some (0, ⟨[0x41], some ⟨1, 1, 6⟩, .sent, none, none⟩) ∧
    (serving lastLine .printing).lateLine ⟨[0x41], some ⟨1, 1, 6⟩, .sent, none, none⟩ = some ⟨1, 1, 6⟩ ∧
    1 ≤ (serving lastLine .printing).free ∧ (serving lastLine .printing).dju.nextSeq ≤ 4294967295 ∧
    4294967295 < { onDuty.dju with nextSeq := 4294967296 }.nextSeq ∧ lastLine.cancelPending = true ∧
    atLine.cancelPending = false ∧ (some (⟨31, none⟩ : Place)).bind (·.line) = none ∧
    nextWaiting (lastLine.lines.map JobLine.unsent) 1 = some 1 ∧
    nextWaiting [⟨[0x41], some ⟨1, 1, 6⟩, .printed, none, some (31, 24)⟩] 1 = none ∧
    (⟨31, none⟩ : Place).page < 32 ∧ 32 ≤ (⟨32, none⟩ : Place).page := by decide

theorem test_meets_WaitsAndGraces :
    (serving { jobOf .started (some 2) with wait := some 1 } .waitingBook).live = true ∧
    (serving { jobOf .started (some 2) with wait := some 1 } .waitingBook).job? 4 =
      some { jobOf .started (some 2) with wait := some 1 } ∧
    ((holding .opened).setPresence 0 (.lost (operator .teller (some 1)) 1)).live = true ∧
    ((holding .opened).setPresence 0 (.lost (operator .teller (some 1)) 1)).presence 0 =
      .lost (operator .teller (some 1)) 1 ∧
    NoGate ((holding .opened).setPresence 0 (.lost (operator .teller (some 1)) 1)) ∧
    (∀ j ∈ (withJob (holding .opened) (jobOf .queued none)).pjq.jobs, j.state = .queued → j.printer = none) ∧
    (holding .opened).pjq.jobs = [] ∧ (holding .opened).hlc.notices.length < 32 ∧
    (withJob (holding .opened) (jobOf .queued none)).pjq.jobs.filter (fun j => j.station = 0 ∧ j.state = .queued) =
      [jobOf .queued none] ∧ ((withJob (holding .opened) (jobOf .queued none)).pjq.jobs.map (·.id)).Nodup :=
  ⟨by decide, by decide, by decide, by decide, noGate_of_unarmed (by decide), by decide, by decide, by decide, by decide, by decide⟩

/-- An arming for the last second of the day. -/
def armedAt : Arm := ⟨.awaitTrigger, .atTime, some 86399, true, 0, none⟩

/-- The gate stands open on a part with an open till; a part without one is at the gate at once. -/
theorem test_meets_CutArmAndDisarm : (holding .opened).listening = true ∧ (holding .opened).dayState = .opened ∧
    (holding .opened).dju.cutRecord = none ∧ (holding .opened).gateMet = false ∧ State.reset.dayState = .unset ∧
    onDuty.dayState = .opened ∧ { onDuty with cut := some armedAt }.dayState = .armed ∧
    { onDuty with cut := some armedAt }.listening = true := by decide

/-- The last second but one of a day, with the arming awaiting the last. -/
def beforeTheCut : State :=
  { onDuty with cut := some armedAt, hlc := { onDuty.hlc with clock := ⟨86398, 0, true⟩ } }

theorem test_meets_TheCut : onDuty.dju.day = some { number := 7, branch := branch } ∧ onDuty.hos.autoStart = false ∧
    onDuty.cut = none ∧ onDuty.dju.cutRecord = none ∧ onDuty.listening = true ∧
    beforeTheCut.dju.day = some { number := 7, branch := branch } ∧ beforeTheCut.hos.autoStart = false ∧
    beforeTheCut.live = true ∧ beforeTheCut.hlc.clock.valid = true ∧
    NextSecond beforeTheCut.hlc.clock ⟨86399, 0, true⟩ ∧ beforeTheCut.cut = some armedAt ∧ armedAt.state = .awaitTrigger ∧
    armedAt.force = true ∧ armedAt.trigger = some 86399 := by unfold NextSecond; decide

/-- The same second with an arming that is not forced, the gate met and not met. -/
def unforced (s : State) : State :=
  { s with cut := some { armedAt with force := false }, hlc := { s.hlc with clock := ⟨86398, 0, true⟩ } }

/-- CUT ARM forced and through the gate; the trigger by the clock and by TIME SET; the gate that an event may meet. -/
theorem test_meets_TheCut_gate : onDuty.gateMet = true ∧ (unforced onDuty).live = true ∧ (unforced onDuty).gateMet = true ∧
    (unforced (holding .opened)).gateMet = false ∧ (unforced onDuty).dju.day = some { number := 7, branch := branch } ∧
    (unforced (holding .opened)).listening = true ∧
    { armedAt with force := false }.trigger = some (⟨86399, 65535, true⟩ : Clock).time ∧
    gated.dju.day = some { number := 7, branch := branch } ∧
    gated.gateMet = false ∧ (∃ v, exec (.countBegin (req ⟨1, 1⟩)) { gated with
      cut := some ⟨.awaitTrigger, .gate, none, false, 0, none⟩ } = .next v ∧ v.gateMet = false) ∧
    ({ holding .counting with cut := gated.cut }).gateMet = false ∧
    ∃ v, exec (.countDeclare (req ⟨1, 1, pairsOf 5⟩)) { holding .counting with
      cut := some ⟨.awaitTrigger, .gate, none, false, 0, none⟩ } = .next v ∧ v.gateMet = true :=
  ⟨by decide, by decide, by decide, by decide, by decide, by decide, by decide, by decide, by decide,
    ⟨_, rfl, by decide⟩, by decide, ⟨_, rfl, by decide⟩⟩

/-- R155: the declaration that meets the gate cuts the day. -/
theorem test_gate_cuts : (after (.countDeclare (req ⟨1, 1, pairsOf 5⟩)) { holding .counting with
    cut := gated.cut }).dju.cutRecord.map (·.day) = some 7 := by decide

theorem test_meets_SendRequests : (sendingIn .ready []).listening = true ∧ (sendingIn .ready []).pins.carrier = true ∧
    (sendingIn .ready []).hos.batch = some ⟨6, 6, 1⟩ ∧ (sendingIn .ready []).hos.autoStart = false ∧
    (sendingIn .ready []).hos.state = .ready ∧
    (sendingIn (.suspended .linePoor) []).listening = true ∧ (sendingIn (.suspended .linePoor) []).pins.carrier = true ∧
    (sendingIn (.suspended .linePoor) []).hos.batch = some ⟨6, 6, 1⟩ ∧
    (sendingIn (.suspended .linePoor) []).hos.state = .suspended .linePoor := by decide

/-- SEND CONFIG that turns auto-start off, and one that turns it on without carrier. -/
theorem test_meets_SendConfig : mayStart.listening = true ∧ mayStart.hos.autoStart = true ∧ onDuty.pins.carrier = false ∧
    onDuty.hos.state ≠ .ready ∧ onDuty.listening = true := by decide

/-- A link test whose frame `n` + 1 is out, its echo due within a second, with `errored` errors so far. -/
def testing (n errored : Nat) : State :=
  let s := after (.sendStart (req ⟨⟩)) (sendingIn .ready [])
  { s with hos := { s.hos with test := { s.hos.test with frames := n, errored := errored, echoTimer := some 1 } } }

theorem test_meets_LinkTest : (testing 62 0).live = true ∧ (testing 62 0).hos.state = .testing ∧
    (testing 62 0).hos.batch = some ⟨6, 6, 1⟩ ∧ (testing 62 0).hos.test.chars.length = 16 ∧
    (testing 62 0).hos.test.echoTimer = some 1 ∧ (testing 62 0).hos.test.frames + 1 < 64 ∧
    64 ≤ (testing 63 0).hos.test.frames + 1 ∧ min 255 ((testing 63 0).hos.test.errored + 0) ≤ (testing 63 0).hos.threshold ∧
    (testing 63 240).hos.threshold < min 255 ((testing 63 240).hos.test.errored + 16) ∧ (testing 63 0).hos.next = some 1 ∧
    onDuty.hos.state ≠ .testing := by
  decide

/-- Blocks 1 and 6 are the bounds of the window, 6 the last of the batch; 2 has failed three times and 6 twice. -/
theorem test_meets_AcksAndNaks : (sendingIn .sending [(1, 0), (2, 3), (6, 2)]).live = true ∧
    (sendingIn .sending [(1, 0), (2, 3), (6, 2)]).hos.state = .sending ∧
    (sendingIn .sending [(1, 0), (2, 3), (6, 2)]).hos.batch = some ⟨6, 6, 1⟩ ∧
    (sendingIn .sending [(1, 0), (2, 3), (6, 2)]).hos.window.getLast? = some (6, 2) ∧
    (sendingIn .held [(1, 0), (6, 2)]).hos.state = .held ∧
    (sendingIn .held [(1, 0), (6, 2)]).hos.batch = some ⟨6, 6, 1⟩ ∧
    (sendingIn .held [(1, 0), (6, 2)]).hos.window.getLast? = some (6, 2) ∧
    (([(1, 0), (2, 3), (6, 2)] : List (Nat × Nat)).lookup 2).getD 0 = 3 ∧
    (([(1, 0), (2, 3), (6, 2)] : List (Nat × Nat)).lookup 6).getD 0 = 2 ∧
    (sendingIn .sending [(1, 0), (2, 3), (6, 2)]).hos.next = some 4 ∧
    (sendingIn .sending []).dju.cutRecord.isSome = true ∧ (sendingIn .sending []).dju.day.isSome = true ∧
    onDuty.hos.state ≠ .sending ∧ onDuty.hos.state ≠ .held := by decide

theorem test_meets_HoldsRejectsRunOutsAndCarrier : (sendingIn .sending [(1, 3)]).live = true ∧
    (sendingIn .sending [(1, 3)]).hos.batch = some ⟨6, 6, 1⟩ ∧ (sendingIn .sending [(1, 3)]).hos.state = .sending ∧
    (sendingIn .sending [(1, 3)]).hos.window = [(1, 3)] ∧ (sendingIn .sending [(1, 2)]).hos.window = [(1, 2)] ∧
    { (sendingIn .sending [(1, 2)]).hos with ackTimer := some 1 }.ackTimer = some 1 ∧
    (sendingIn .held []).hos.state = .held ∧ { (sendingIn .held []).hos with holdTimer := some 1 }.holdTimer = some 1 ∧
    (sendingIn .held []).pins.carrier = true ∧ (sendingIn .ready []).hos.state = .ready ∧
    { (sendingIn .ready []).hos with autoStart := true }.autoStart = true ∧
    { (sendingIn .ready []).pins with carrier := false }.carrier = false ∧ onDuty.hos.state = .idle ∧
    (after .lossOfMainPower onDuty).live = false := by decide

/-- The notices beside 31 others, and at a full queue. -/
theorem test_full_queue_discards :
    (after .carrierLoss { sendingIn .sending [] with hlc := { onDuty.hlc with
      notices := List.replicate 31 ⟨0, .inputReady 0⟩ } }).hlc.notices.length = 32 ∧
    ((after .carrierLoss { sendingIn .sending [] with hlc := { onDuty.hlc with
      notices := List.replicate 32 ⟨0, .inputReady 0⟩ } }).hlc.notices, (after .carrierLoss { sendingIn .sending [] with
      hlc := { onDuty.hlc with notices := List.replicate 32 ⟨0, .inputReady 0⟩ } }).hlc.overflow) =
      (List.replicate 32 ⟨0, .inputReady 0⟩, true) := by decide

theorem test_meets_ReadNotices : onDuty.listening = true ∧ onDuty.hlc.notices.length = 1 := by decide

theorem test_meets_DamagedFrames : onDuty.listening = true ∧ onDuty.live = true ∧
    (after .resetAssert onDuty).live = false ∧ LinkPort.screenLine ≠ .headOffice := by decide

/-- What the bytes on a link bring: the receiver afterwards and the commands. -/
def heard (port : LinkPort) (bytes : Text) : LinkReceive × List Instr :=
  let r := bytes.foldl (fun (a : State × List Instr) b => ((a.1.hearLink port b).1, a.2 ++ (a.1.hearLink port b).2)) (onDuty, [])
  (r.1.receiver port, r.2)

/-- R203: a link's receiver passes over what stands before the start byte, and hunts again after the frame. -/
theorem test_hearLink : heard .headOffice (0x81 :: 0x96 :: checked [0x81, 0x00, 0x02, 0x01, 0x00]) = (.hunting, [.ack 256]) ∧
    heard (.printer 2) (0x96 :: 0x3C :: checked [0x86, 0x01, 0x07]) = (.hunting, [.fault 2 7]) ∧
    heard .screenLine [0x5B, 0x01, 0x01] = (.gathering [0x01, 0x01], []) ∧
    heard .screenLine (0x5B :: checked [0x01, 0x0A, 0x01, 0x41]) = (.hunting, [.screenReply ⟨1, false, .echo [0x41]⟩]) := by
  decide

end Sys2Proof.Tests
end

