-- ==== Sys2Proof/Proofs/Limits.lean ====
section
/-! SUPPORT. The limit monitor: what settings, evaluations and trips do to a monitor and its holder's indicators, and the statements
about LIMIT SET, LIMIT ARM, LIMIT CLEAR and the evaluation (03). -/

namespace Sys2Proof.Machine

open Sys2Proof

/-! ### A monitor record -/

theorem Monitor.apply_eq (m : Monitor) (l : Limits) :
    m.apply l = { m with
      limits := l, streak := 0, streakDir := none, live := false
      state := if m.state = .watching ∧ l.filter = 0 then .off else m.state } := by
  unfold Monitor.apply
  cases state : m.state <;> simp

theorem Monitor.outOfRange_below {m : Monitor} {d : Direction} {n : Nat}
    (run : n = if m.streakDir = some d then m.streak + 1 else 1) (below : n ≠ m.limits.filter) :
    m.outOfRange d = { m with streak := n, streakDir := some d, live := true } := by
  subst run
  simp only [Monitor.outOfRange, if_neg below]

theorem Monitor.outOfRange_at {m : Monitor} {d : Direction} {n : Nat}
    (run : n = if m.streakDir = some d then m.streak + 1 else 1) (reached : n = m.limits.filter) :
    m.outOfRange d = { m with streak := n, streakDir := some d, live := true, state := .tripped d } := by
  subst run
  simp only [Monitor.outOfRange, if_pos reached]

theorem Monitor.classOf_within {m : Monitor} {v : Nat} (low : m.limits.lower ≤ v) (high : v ≤ m.limits.upper) :
    m.classOf v = none := by
  rw [Monitor.classOf, if_neg (Nat.not_lt.mpr high), if_neg (Nat.not_lt.mpr low)]

theorem Monitor.classOf_outside {m : Monitor} {v : Nat} {d : Direction}
    (outside : d = .high ∧ m.limits.upper < v ∨ d = .low ∧ v < m.limits.lower ∧ v ≤ m.limits.upper) :
    m.classOf v = some d := by
  rcases outside with ⟨rfl, above⟩ | ⟨rfl, below, notAbove⟩
  · rw [Monitor.classOf, if_pos above]
  · rw [Monitor.classOf, if_neg (Nat.not_lt.mpr notAbove), if_pos below]

/-- The record as LIMIT CLEAR leaves it (R59). -/
def Monitor.cleared (m : Monitor) : Monitor := { m with state := .off, streak := 0, streakDir := none, live := false }

/-- A cleared monitor is enforced in neither direction (R55). -/
theorem Monitor.cleared_enforces (m : Monitor) (d : Direction) : m.cleared.enforces d = false := rfl

/-! ### The holder's indicators -/

/-- What has been shown since `v` has been shown since any state with the same screen line. -/
theorem HoldShown.since {st : Station} {s v u : State} (shown : HoldShown st v u) (slc : v.slc = s.slc) : HoldShown st s u := by
  have lines : ∀ x : Station, v.line x = s.line x := fun x => by rw [State.line, State.line, slc]
  simpa only [HoldShown, OnlyIndicators, SlotsFollow, Repainted, lines, slc] using shown

theorem KeepsLine.since {s v u : State} (keeps : KeepsLine v u) (slc : v.slc = s.slc) : KeepsLine s u := by
  have lines : ∀ x : Station, v.line x = s.line x := fun x => by rw [State.line, State.line, slc]
  simpa only [KeepsLine, lines, slc] using keeps

/-- The limit indicators of the station that holds a till follow the till's trip (R54). -/
theorem ShowsHold.limits {st : Station} {u : State} {t : Till} (shows : ShowsHold st u) (held : u.held st = some t) :
    hasBit (u.line st).indicators .limitHigh = decide ((u.monitor t).state = .tripped .high) ∧
      hasBit (u.line st).indicators .limitLow = decide ((u.monitor t).state = .tripped .low) := by
  obtain ⟨o, signed, its⟩ := Option.bind_eq_some_iff.mp held
  obtain ⟨-, -, high, low, -⟩ := shows o signed
  rw [its] at high low
  exact ⟨high, low⟩

theorem State.syncHolder_monitor (s : State) (holder : Option Station) (t : Till) :
    (s.syncHolder holder).monitor t = s.monitor t := by
  simp [monitor]

/-- Setting the holder's indicators afresh in `v`, whose stations and screen line are those of `s`: the limit indicators of the
station that holds till `t` follow `t`'s monitor in `v` (R54), and without a holder the screen line stands. -/
theorem State.syncHolder_shows {s v : State} (t : Till) (holder : Option Station) (slc : v.slc = s.slc) (stu : v.stu = s.stu) :
    KeepsLine s (v.syncHolder holder) ∧
      (∀ st : Station, holder = some st → HoldShown st s (v.syncHolder holder) ∧ (s.held st = some t →
        hasBit ((v.syncHolder holder).line st).indicators .limitHigh = decide ((v.monitor t).state = .tripped .high) ∧
        hasBit ((v.syncHolder holder).line st).indicators .limitLow = decide ((v.monitor t).state = .tripped .low))) ∧
      (holder = none → (v.syncHolder holder).slc = s.slc) := by
  cases holder with
  | none => exact ⟨(KeepsLine.refl v).since slc, nofun, fun _ => slc⟩
  | some st =>
    obtain ⟨shown, keeps, -⟩ := v.syncHold_does st
    have still : (v.syncHold st).held st = s.held st := by simp [held, signOn?, presence, station, stu]
    refine ⟨keeps.since slc, ?_, nofun⟩
    rintro _ ⟨⟩
    refine ⟨shown.since slc, fun held => ?_⟩
    rw [← v.syncHolder_monitor (some st) t]
    exact shown.1.limits (still.trans held)

/-! ### The evaluation (R51 to R53) -/

namespace State

theorem setMonitor_only (s : State) (t : Till) (m : Monitor) : OnlyMonitor t s (s.setMonitor t m) := fun x away => by
  rw [monitor_setMonitor, if_neg away]

/-- The notice of a trip, which gives the limits and the holder as they stand before it (R53). -/
def tripNotice (s : State) (t : Till) (d : Direction) (v q : Nat) : Notice :=
  .limitTrip t d v (s.monitor t).limits.lower (s.monitor t).limits.upper (s.monitor t).limits.filter (s.till t).holder q

/-- A trip before its holder's indicators follow: the record and the notice. -/
def tripRaised (s : State) (t : Till) (d : Direction) (v q : Nat) : State :=
  (s.setMonitor t ((s.monitor t).outOfRange d)).raise (s.tripNotice t d v q)

theorem trip_eq (s : State) (t : Till) (d : Direction) (v q : Nat) :
    s.trip t d v q = (s.tripRaised t d v q).syncHolder (s.till t).holder := rfl

theorem tripRaised_monitor (s : State) (t x : Till) (d : Direction) (v q : Nat) :
    (s.tripRaised t d v q).monitor x = (s.setMonitor t ((s.monitor t).outOfRange d)).monitor x := by
  simp [tripRaised, monitor]

theorem trip_monitor (s : State) (t x : Till) (d : Direction) (v q : Nat) :
    (s.trip t d v q).monitor x = (s.setMonitor t ((s.monitor t).outOfRange d)).monitor x := by
  rw [trip_eq, syncHolder_monitor, tripRaised_monitor]

theorem trip_raises (s : State) (t : Till) (d : Direction) (v q : Nat) :
    RaisesNotice ⟨s.now, s.tripNotice t d v q⟩ s (s.trip t d v q) := by
  have link : (s.trip t d v q).hlc = (s.tripRaised t d v q).hlc := by simp [trip_eq]
  unfold RaisesNotice
  rw [link]
  exact (s.setMonitor t ((s.monitor t).outOfRange d)).raise_raises (s.tripNotice t d v q)

/-- A trip shows itself at the holder's screen (R54). -/
theorem trip_shows (s : State) (t : Till) (d : Direction) (v q : Nat) :
    KeepsLine s (s.trip t d v q) ∧
      (∀ st : Station, (s.till t).holder = some st → HoldShown st s (s.trip t d v q) ∧ (s.held st = some t →
        hasBit ((s.trip t d v q).line st).indicators .limitHigh = decide (((s.monitor t).outOfRange d).state = .tripped .high) ∧
        hasBit ((s.trip t d v q).line st).indicators .limitLow = decide (((s.monitor t).outOfRange d).state = .tripped .low))) ∧
      ((s.till t).holder = none → (s.trip t d v q).slc = s.slc) := by
  have slc : (s.tripRaised t d v q).slc = s.slc := by simp [tripRaised]
  have stu : (s.tripRaised t d v q).stu = s.stu := by simp [tripRaised]
  have record : (s.tripRaised t d v q).monitor t = (s.monitor t).outOfRange d := by
    rw [tripRaised_monitor, monitor_setMonitor_same]
  rw [trip_eq, ← record]
  exact syncHolder_shows t _ slc stu

variable {s : State} {t : Till} {q v : Nat}

/-- R51. -/
theorem evaluate_idle (idle : (s.monitor t).state ≠ .watching ∨ s.tillValue t = none) : s.evaluate t q = s := by
  unfold evaluate
  dsimp only
  split
  · rename_i watching valued
    rcases idle with other | absent
    · exact absurd watching other
    · rw [absent] at valued
      cases valued
  · rfl

theorem evaluate_within (watching : (s.monitor t).state = .watching) (valued : s.tillValue t = some v)
    (inside : (s.monitor t).classOf v = none) : s.evaluate t q = s.setMonitor t (s.monitor t).within := by
  simp only [evaluate, watching, valued, inside]

theorem evaluate_runs {d : Direction} (watching : (s.monitor t).state = .watching) (valued : s.tillValue t = some v)
    (outside : (s.monitor t).classOf v = some d) (runs : ((s.monitor t).outOfRange d).state = .watching) :
    s.evaluate t q = s.setMonitor t ((s.monitor t).outOfRange d) := by
  simp only [evaluate, watching, valued, outside, runs]

theorem evaluate_trips {d : Direction} (watching : (s.monitor t).state = .watching) (valued : s.tillValue t = some v)
    (outside : (s.monitor t).classOf v = some d) (trips : ((s.monitor t).outOfRange d).state = .tripped d) :
    s.evaluate t q = s.trip t d v q := by
  simp only [evaluate, watching, valued, outside, trips]

/-- An evaluation leaves the state alone, writes the till's monitor, or trips it. -/
theorem evaluate_cases (s : State) (t : Till) (q : Nat) :
    s.evaluate t q = s ∨ (∃ m, s.evaluate t q = s.setMonitor t m) ∨ ∃ d v, s.evaluate t q = s.trip t d v q := by
  unfold evaluate
  dsimp only
  split
  · split
    · exact .inr (.inl ⟨_, rfl⟩)
    · split
      · exact .inr (.inr ⟨_, _, rfl⟩)
      · exact .inr (.inl ⟨_, rfl⟩)
  · exact .inl rfl

theorem evaluate_only (s : State) (t : Till) (q : Nat) : OnlyMonitor t s (s.evaluate t q) := by
  rcases s.evaluate_cases t q with same | ⟨m, written⟩ | ⟨d, v, tripped⟩
  · exact fun _ _ => by rw [same]
  · exact written ▸ s.setMonitor_only t m
  · exact fun x away => by rw [tripped, trip_monitor, s.setMonitor_only t _ x away]

theorem evaluate_keepsLine (s : State) (t : Till) (q : Nat) : KeepsLine s (s.evaluate t q) := by
  rcases s.evaluate_cases t q with same | ⟨m, written⟩ | ⟨d, v, tripped⟩
  · exact same.symm ▸ KeepsLine.refl s
  · exact written ▸ KeepsLine.refl s
  · exact tripped ▸ (s.trip_shows t d v q).1

theorem evaluate_keepsLink (s : State) (t : Till) (q : Nat) : KeepsLink s (s.evaluate t q) := by
  apply Hlc.ext <;> simp

theorem evaluate_rest (s : State) (t : Till) (q : Nat) : s.evaluate t q = { s with
    lmu := (s.evaluate t q).lmu, slc := (s.evaluate t q).slc, hlc := (s.evaluate t q).hlc } := by
  apply State.ext <;> simp

end State

/-- Settles O35: the class of the value and the length of the streak choose between the record within its limits, the longer
streak and the trip. -/
theorem streaksTripTheMonitor : Obligations.StreaksTripTheMonitor := by
  refine ⟨fun s t q idle => State.evaluate_idle idle, ?_⟩
  rintro s t q v m rfl watching valued
  refine ⟨s.evaluate_only t q, s.evaluate_keepsLine t q, s.evaluate_keepsLink t q, s.evaluate_rest t q, ?_, ?_⟩
  · intro low high
    rw [State.evaluate_within watching valued (Monitor.classOf_within low high), State.monitor_setMonitor_same]
    exact ⟨rfl, rfl, rfl⟩
  · intro d outside n run
    have cls := Monitor.classOf_outside outside
    refine ⟨fun below => ?_, fun reached => ?_⟩
    · have record := Monitor.outOfRange_below run below
      rw [State.evaluate_runs watching valued cls (by rw [record, watching]), State.monitor_setMonitor_same]
      exact ⟨record, rfl, rfl⟩
    · have record := Monitor.outOfRange_at run reached
      have tripped : ((s.monitor t).outOfRange d).state = .tripped d := by rw [record]
      obtain ⟨-, shows, alone⟩ := s.trip_shows t d v q
      simp only [tripped, MonitorState.tripped.injEq] at shows
      rw [State.evaluate_trips watching valued cls tripped, State.trip_monitor, State.monitor_setMonitor_same]
      exact ⟨record, shows, alone, s.trip_raises t d v q⟩

/-! ### The requests (R57 to R60) -/

theorem exec_limitSet (r : Req LimitSetFields) (s : State) : exec (.limitSet r) s = takeRequest 0x20 r s limitSet := rfl
theorem exec_limitClear (r : Req TillFields) (s : State) : exec (.limitClear r) s = takeRequest 0x21 r s limitClear := rfl
theorem exec_limitArm (r : Req TillFields) (s : State) :
    exec (.limitArm r) s = takeRequestWith armRefusal 0x22 r s limitArm := rfl

theorem till?_of_ge {n : Nat} (out : 13 ≤ n) : till? n = none := dif_neg (Nat.not_lt.mpr out)

section LimitSet

variable {s : State} {t : Till} {lower upper filter : Nat} {enforce : Bool}

theorem limits_legal (order : lower < upper) (most : upper ≤ 65535000000) (short : filter ≤ 15) :
    lower ≤ Config.maxValue ∧ upper ≤ Config.maxValue ∧ lower < upper ∧ filter ≤ 15 :=
  ⟨Nat.le_trans (Nat.le_of_lt order) most, most, order, short⟩

theorem limitSet_counting (order : lower < upper) (most : upper ≤ 65535000000) (short : filter ≤ 15)
    (counting : (s.till t).state = .counting) : limitSet ⟨t.val, lower, upper, filter, enforce⟩ s =
      .ok (s.setMonitor t { s.monitor t with pending := some ⟨lower, upper, filter, enforce⟩ },
        [.num 1 2, .num 1 (s.monitor t).state.code]) := by
  simp only [limitSet, till?_val, require_some, ok_bind, need_true (limits_legal order most short), if_pos counting]
  rfl

theorem limitSet_notCounting (order : lower < upper) (most : upper ≤ 65535000000) (short : filter ≤ 15)
    (other : (s.till t).state ≠ .counting) : limitSet ⟨t.val, lower, upper, filter, enforce⟩ s =
      .ok (s.setMonitor t ((s.monitor t).apply ⟨lower, upper, filter, enforce⟩),
        [.num 1 1, .num 1 ((s.monitor t).apply ⟨lower, upper, filter, enforce⟩).state.code]) := by
  simp only [limitSet, till?_val, require_some, ok_bind, need_true (limits_legal order most short), if_neg other]
  rfl

end LimitSet

/-- Settles O32: the two branches of LIMIT SET, by the state of the till. -/
theorem limitSetTakesEffectOrWaits : Obligations.LimitSetTakesEffectOrWaits := by
  rintro s tag lower upper filter t enforce m up order most short rfl
  rw [exec_limitSet]
  by_cases counting : (s.till t).state = .counting
  · refine ⟨_, takeRequest_ok up rfl (limitSet_counting (s := s.quiet) order most short counting), s.setMonitor_only t _,
      fun _ => ⟨s.monitor_setMonitor_same t _, rfl⟩, fun other => absurd counting other, rfl⟩
  · have record : (s.setMonitor t ((s.monitor t).apply ⟨lower, upper, filter, enforce⟩)).monitor t =
        (s.monitor t).apply ⟨lower, upper, filter, enforce⟩ := s.monitor_setMonitor_same t _
    refine ⟨_, takeRequest_ok up rfl (limitSet_notCounting (s := s.quiet) order most short counting), s.setMonitor_only t _,
      fun same => absurd same counting, fun _ => ⟨record.trans (Monitor.apply_eq _ _), ?_⟩, rfl⟩
    exact congrArg (fun m : Monitor => [replyTo 0x20 tag .ok [.num 1 1, .num 1 m.state.code]]) record.symm

section LimitArm

variable {s : State} {t : Till}

theorem limitArm_off (off : (s.monitor t).state = .off) (armed : 1 ≤ (s.monitor t).limits.filter) :
    limitArm ⟨t.val⟩ s = .ok (s.setMonitor t
      { s.monitor t with state := .watching, streak := 0, streakDir := none, live := false }, [.num 1 2]) := by
  simp only [limitArm, till?_val, require_some, ok_bind, off, need_true armed]
  rfl

theorem limitArm_unfiltered (off : (s.monitor t).state = .off) (still : (s.monitor t).limits.filter = 0) :
    limitArm ⟨t.val⟩ s = .error .wrongState := by
  have unfiltered : ¬ 1 ≤ (s.monitor t).limits.filter := by omega
  simp only [limitArm, till?_val, require_some, ok_bind, off, need_false unfiltered]
  rfl

theorem limitArm_watching (watching : (s.monitor t).state = .watching) : limitArm ⟨t.val⟩ s = .ok (s, [.num 1 2]) := by
  simp only [limitArm, till?_val, require_some, ok_bind, watching]
  rfl

theorem limitArm_tripped {d : Direction} (tripped : (s.monitor t).state = .tripped d) :
    limitArm ⟨t.val⟩ s = .error .wrongState := by
  simp only [limitArm, till?_val, require_some, ok_bind, tripped]

theorem limitArm_outOfRange {n : Nat} (out : 13 ≤ n) : limitArm ⟨n⟩ s = .error .badField := by
  simp only [limitArm, till?_of_ge out, require_none, error_bind]

theorem armRefusal_outOfRange {n : Nat} (out : 13 ≤ n) (e : Status) : armRefusal ⟨n⟩ s e = [] := by
  have unnamed : till? (TillFields.mk n).till = none := till?_of_ge out
  unfold armRefusal
  split
  · rename_i t named
    rw [unnamed] at named
    cases named
  · rfl

/-- A WRONG_STATE of LIMIT ARM carries the monitor state (R60, log 25). -/
theorem exec_limitArm_wrongState {tag : Nat} (up : s.listening = true) (bad : limitArm ⟨t.val⟩ s.quiet = .error .wrongState) :
    exec (.limitArm ⟨tag, some ⟨t.val⟩⟩) s =
      .next { s with sent := [replyTo 0x22 tag .wrongState [.num 1 (s.monitor t).state.code]] } := by
  rw [exec_limitArm, takeRequestWith_refused up rfl bad, armRefusal_eq _ _ _ t (till?_val t), if_pos rfl]
  rfl

end LimitArm

/-- Settles O33: one case for each monitor state, OFF with F = 0 apart. -/
theorem limitArmStartsTheWatch : Obligations.LimitArmStartsTheWatch := by
  intro s tag up
  refine ⟨fun n out => ?_, ?_⟩
  · rw [exec_limitArm, takeRequestWith_refused up rfl (limitArm_outOfRange out), armRefusal_outOfRange out]
    rfl
  rintro t m rfl
  refine ⟨fun off armed => ?_, fun off still => ?_, fun watching => ?_, fun d tripped => ?_⟩
  · exact ⟨_, (exec_limitArm _ s).trans (takeRequestWith_ok up rfl (limitArm_off (s := s.quiet) off armed)),
      s.monitor_setMonitor_same t _, s.setMonitor_only t _, rfl⟩
  · rw [exec_limitArm_wrongState up (limitArm_unfiltered (s := s.quiet) off still), off]
    rfl
  · exact (exec_limitArm _ s).trans (takeRequestWith_ok up rfl (limitArm_watching (s := s.quiet) watching))
  · rw [exec_limitArm_wrongState up (limitArm_tripped (s := s.quiet) tripped), tripped]
    rfl

section LimitClear

variable {s : State} {t : Till}

theorem limitClear_tripped {d : Direction} (tripped : (s.monitor t).state = .tripped d) :
    limitClear ⟨t.val⟩ s =
      .ok ((s.setMonitor t (s.monitor t).cleared).syncHolder (s.till t).holder, [valueItem (s.tillValue t)]) := by
  have either : (s.monitor t).state = .tripped .high ∨ (s.monitor t).state = .tripped .low := by
    cases d
    · exact .inl tripped
    · exact .inr tripped
  simp only [limitClear, till?_val, require_some, ok_bind, need_true either]
  rfl

theorem limitClear_untripped (untripped : (s.monitor t).state = .off ∨ (s.monitor t).state = .watching) :
    limitClear ⟨t.val⟩ s = .error .wrongState := by
  have neither : ¬ ((s.monitor t).state = .tripped .high ∨ (s.monitor t).state = .tripped .low) := by
    rcases untripped with state | state <;> simp [state]
  simp only [limitClear, till?_val, require_some, ok_bind, need_false neither, error_bind]

theorem limitClear_outOfRange {n : Nat} (out : 13 ≤ n) : limitClear ⟨n⟩ s = .error .badField := by
  simp only [limitClear, till?_of_ge out, require_none, error_bind]

end LimitClear

/-- Settles O34: the cleared monitor is written first, and the holder's indicators follow it. -/
theorem limitClearEndsTheTrip : Obligations.LimitClearEndsTheTrip := by
  intro s tag up
  refine ⟨fun n out => (exec_limitClear _ s).trans (takeRequest_refused up rfl (limitClear_outOfRange out)), ?_⟩
  rintro t m rfl
  refine ⟨fun d tripped => ?_, fun untripped => (exec_limitClear _ s).trans
    (takeRequest_refused up rfl (limitClear_untripped (s := s.quiet) untripped))⟩
  generalize written : s.quiet.setMonitor t (s.monitor t).cleared = v
  have done : limitClear ⟨t.val⟩ s.quiet = .ok (v.syncHolder (s.till t).holder, [valueItem (s.tillValue t)]) :=
    written ▸ limitClear_tripped (s := s.quiet) tripped
  have here : v.monitor t = (s.monitor t).cleared := written ▸ State.monitor_setMonitor_same _ t _
  have record : (v.syncHolder (s.till t).holder).monitor t = (s.monitor t).cleared := (v.syncHolder_monitor _ t).trans here
  have enforced : ∀ d : Direction, ((v.syncHolder (s.till t).holder).monitor t).enforces d = false := fun d => by
    rw [record, Monitor.cleared_enforces]
  obtain ⟨keeps, shows, alone⟩ := State.syncHolder_shows (s := s) (v := v) t (s.till t).holder (by simp [← written])
    (by simp [← written])
  simp only [here, Monitor.cleared, reduceCtorEq, decide_false] at shows
  refine ⟨_, (exec_limitClear _ s).trans (takeRequest_ok up rfl done), record, fun x away => ?_, enforced .high, enforced .low,
    shows, alone, keeps, ?_⟩
  · exact (v.syncHolder_monitor _ x).trans (written ▸ s.quiet.setMonitor_only t _ x away)
  · apply State.ext <;> simp [← written]

end Sys2Proof.Machine
end

