-- ==== Sys2Proof/Proofs/Stations.lean ====
section
/-! SUPPORT. The station unit and the presence that the screen line gives it: sign-on, sign-off, setup, the third missed reply and the
reply that brings a screen back (04, 05). -/

namespace Sys2Proof.Machine

open Sys2Proof

/-! ### The fields of the station requests -/

theorem station?_out {n : Nat} (out : n < 1 ∨ 12 < n) : station? n = none := dif_neg (by omega)

theorem textOk_iff {set lo hi : Nat} {t : Text} :
    textOk set lo hi t = true ↔ lo ≤ t.length ∧ t.length ≤ hi ∧ ∀ b ∈ t, inCharset set b = true := by
  simp [textOk, and_assoc]

theorem role?_some {n : Nat} {role : Role} :
    role? n = some role ↔ n = 1 ∧ role = .teller ∨ n = 2 ∧ role = .supervisor := by
  unfold role?
  split <;> simp_all [eq_comm]

namespace State

variable {s : State} {st : Station} {o : SignOn}

/-! ### Presence -/

theorem signOn?_some : s.signOn? st = some o ↔ s.presence st = .signedOn o ∨ ∃ g, s.presence st = .lost o g := by
  unfold signOn?
  split <;> simp_all

theorem signOn?_none : s.signOn? st = none ↔ s.presence st = .vacant ∨ s.presence st = .present := by
  unfold signOn?
  cases s.presence st <;> simp

theorem countedPresent_true :
    s.countedPresent st = true ↔ s.presence st = .present ∨ ∃ o, s.presence st = .signedOn o := by
  unfold countedPresent
  cases s.presence st <;> simp

theorem countedPresent_false :
    s.countedPresent st = false ↔ s.presence st = .vacant ∨ ∃ o g, s.presence st = .lost o g := by
  unfold countedPresent
  cases s.presence st <;> simp

theorem setPresence_only (s : State) (st : Station) (p : Presence) : OnlyPresence st s (s.setPresence st p) := by
  refine ⟨fun x => ?_, fun x away => by rw [presence_setPresence, if_neg away]⟩
  rw [setPresence, station_setStation]
  split
  · rename_i here
    rw [here]
  · rfl

/-! ### The status slot -/

theorem statusSet_eq (s : State) (st : Station) : s.statusSet st = ⟨(s.line st).indicators, (s.station st).setup⟩ := rfl

theorem fillSlot_station (s : State) (st x : Station) : (s.fillSlot st).station x = s.station x := by
  simp [station]

theorem fillSlot_rest (s : State) (st : Station) : s.fillSlot st = { s with
    slc := { s.slc with lines := (s.fillSlot st).slc.lines, slot := (s.fillSlot st).slc.slot } } := by
  simp only [fillSlot, markRefilled]
  (repeat' split) <;> rfl

theorem fillSlot_marks (s : State) (st : Station) : MarksFrame st s (s.fillSlot st) := by
  unfold MarksFrame fillSlot markRefilled
  cases out : s.slc.slot with
  | none => simp [setLine, out]
  | some sl =>
    by_cases here : sl.station = st <;> simp [setLine, out, here]

/-- A line record that differs in indicators and status slot alone may stand in a station's place. -/
theorem keepsLine_of_line {u : State} {ink : BitVec 8} {set : Option StatusSet}
    (slc : u.slc = { s.slc with lines := u.slc.lines, slot := u.slc.slot })
    (out : u.slc.slot.map (fun sl => { sl with refilled := true }) = s.slc.slot.map fun sl => { sl with refilled := true })
    (lines : ∀ x, u.line x = if x = st then { s.line st with indicators := ink, slot := set } else s.line x) :
    KeepsLine s u := by
  refine ⟨slc, fun x => ?_, out⟩
  rw [lines]
  split
  · rename_i here
    rw [here]
  · rfl

theorem fillSlot_keepsLine (s : State) (st : Station) : KeepsLine s (s.fillSlot st) :=
  keepsLine_of_line (fillSlot_slc s st) (fillSlot_slot s st) fun x => line_fillSlot s st x

theorem setIndicators_keepsLine (s : State) (st : Station) (ink : BitVec 8) :
    KeepsLine s (s.setLine st { s.line st with indicators := ink }) :=
  keepsLine_of_line rfl rfl fun x => line_setLine s st x _

/-! ### A station with its indicators set afresh (R68, R71) -/

/-- What SIGN ON and SIGN OFF share: the station's presence is `p`, its indicators are `ink`, and its status slot is filled. -/
def reseat (s : State) (st : Station) (p : Presence) (ink : BitVec 8) : State :=
  ((s.setPresence st p).setLine st { (s.setPresence st p).line st with indicators := ink }).fillSlot st

theorem reseat_line (s : State) (st x : Station) (p : Presence) (ink : BitVec 8) :
    (s.reseat st p ink).line x = if x = st
      then { s.line st with indicators := ink, slot := some ⟨ink, (s.station st).setup⟩ } else s.line x := by
  have setup : ((s.setPresence st p).station st).setup = (s.station st).setup := (s.setPresence_only st p).1 st
  rw [reseat, line_fillSlot, statusSet_eq, line_setLine_same, line_setLine]
  split
  · exact congrArg (fun u : Setup => { s.line st with indicators := ink, slot := some ⟨ink, u⟩ }) setup
  · rfl

theorem reseat_presence (s : State) (st x : Station) (p : Presence) (ink : BitVec 8) :
    (s.reseat st p ink).presence x = (s.setPresence st p).presence x :=
  congrArg StationRec.presence (fillSlot_station _ st x)

theorem reseat_only (s : State) (st : Station) (p : Presence) (ink : BitVec 8) : OnlyPresence st s (s.reseat st p ink) := by
  obtain ⟨setups, others⟩ := s.setPresence_only st p
  exact ⟨fun x => (congrArg StationRec.setup (fillSlot_station _ st x)).trans (setups x),
    fun x away => (s.reseat_presence st x p ink).trans (others x away)⟩

theorem reseat_marks (s : State) (st : Station) (p : Presence) (ink : BitVec 8) : MarksFrame st s (s.reseat st p ink) :=
  fillSlot_marks _ st

theorem reseat_keepsLine (s : State) (st : Station) (p : Presence) (ink : BitVec 8) : KeepsLine s (s.reseat st p ink) :=
  ((s.setPresence st p).setIndicators_keepsLine st ink).trans (fillSlot_keepsLine _ st)

/-- The part after a request that reseats the station and is answered with `reply`. -/
theorem reseat_replied {u : State} (s : State) (st : Station) (p : Presence) (ink : BitVec 8) (reply : Sent)
    (after : u = (s.quiet.reseat st p ink).emit reply) :
    u.presence st = p ∧ OnlyPresence st s u ∧ (u.line st).indicators = ink ∧
      (u.line st).slot = some { indicators := ink, setup := (s.station st).setup } ∧
      (∀ x : Station, x ≠ st → u.line x = s.line x) ∧ MarksFrame st s u ∧ KeepsLine s u ∧
      u = { s with sent := [reply], stu := u.stu, slc := u.slc } := by
  subst after
  have lines := fun x => s.quiet.reseat_line st x p ink
  have here : ((s.quiet.reseat st p ink).emit reply).line st = _ := (lines st).trans (if_pos rfl)
  refine ⟨(s.quiet.reseat_presence st st p ink).trans (presence_setPresence_same ..), s.quiet.reseat_only st p ink,
    congrArg LineRec.indicators here, congrArg LineRec.slot here, fun x away => (lines x).trans (if_neg away),
    s.quiet.reseat_marks st p ink, s.quiet.reseat_keepsLine st p ink, ?_⟩
  apply State.ext <;> simp [reseat]

end State

/-! ### SIGN ON (R68) -/

theorem exec_signOn (r : Req SignOnFields) (s : State) : exec (.signOn r) s = takeRequest 0x28 r s signOn := rfl

section SignOn

variable {s : State} {st : Station} {operator : Text} {n : Nat} {role : Role}

theorem signOn_outOfRange {m : Nat} (out : m < 1 ∨ 12 < m) : signOn ⟨m, operator, n⟩ s = .error .badField := by
  simp only [signOn, station?_out out, require_none, error_bind]

theorem signOn_noRole (unnamed : role? n = none) : signOn ⟨stationNo st, operator, n⟩ s = .error .badField := by
  simp only [signOn, station?_stationNo, require_some, ok_bind, unnamed, require_none, error_bind]

theorem signOn_badOperator (named : role? n = some role) (bad : ¬ textOk (s.station st).setup.charset 1 8 operator = true) :
    signOn ⟨stationNo st, operator, n⟩ s = .error .badField := by
  simp only [signOn, station?_stationNo, require_some, ok_bind, named, need_false bad, error_bind]

theorem signOn_vacant (named : role? n = some role) (text : textOk (s.station st).setup.charset 1 8 operator = true)
    (vacant : s.presence st = .vacant) : signOn ⟨stationNo st, operator, n⟩ s = .error .notPresent := by
  simp only [signOn, station?_stationNo, require_some, ok_bind, named, need_true text, need_false (not_not_intro vacant),
    error_bind]

theorem signOn_signedOn (named : role? n = some role) (text : textOk (s.station st).setup.charset 1 8 operator = true)
    (signed : (s.signOn? st).isSome = true) : signOn ⟨stationNo st, operator, n⟩ s = .error .wrongState := by
  have occupied : ¬ (s.presence st = .vacant ∨ s.presence st = .present) := fun free => by
    rw [State.signOn?_none.mpr free] at signed
    cases signed
  simp only [signOn, station?_stationNo, require_some, ok_bind, named, need_true text,
    need_true (mt Or.inl occupied), need_false (mt Or.inr occupied), error_bind]

theorem signOn_underTest (named : role? n = some role) (text : textOk (s.station st).setup.charset 1 8 operator = true)
    (present : s.presence st = .present) (running : (s.line st).test.running = true) :
    signOn ⟨stationNo st, operator, n⟩ s = .error .wrongState := by
  have seen : s.presence st ≠ .vacant := by simp [present]
  have tested : ¬ (s.line st).test.running = false := by simp [running]
  simp only [signOn, station?_stationNo, require_some, ok_bind, named, need_true text, need_true seen, need_true present,
    need_false tested, error_bind]

theorem signOn_present (named : role? n = some role) (text : textOk (s.station st).setup.charset 1 8 operator = true)
    (present : s.presence st = .present) (idle : (s.line st).test.running = false) :
    signOn ⟨stationNo st, operator, n⟩ s =
      .ok (s.reseat st (.signedOn ⟨operator, role, s.now, none⟩) (setBit 0 .cutArmed (s.dayState == .armed)),
        [.num 4 s.now]) := by
  have seen : s.presence st ≠ .vacant := by simp [present]
  simp only [signOn, station?_stationNo, require_some, ok_bind, named, need_true text, need_true seen, need_true present,
    need_true idle]
  rfl

/-- A sign-on's fields are in order when a role is named and the operator id is one of the station's character set. -/
theorem signOn_fields_iff {set : Nat} :
    (1 ≤ operator.length ∧ operator.length ≤ 8 ∧ (∀ b ∈ operator, inCharset set b = true) ∧ (n = 1 ∨ n = 2)) ↔
      textOk set 1 8 operator = true ∧ ∃ role, role? n = some role := by
  have roles : (∃ role, role? n = some role) ↔ n = 1 ∨ n = 2 := by
    simp [role?_some, exists_or]
  rw [roles, textOk_iff]
  simp only [and_assoc]

end SignOn

/-- The indicators of a fresh sign-on: CUT_ARMED alone, where the day is ARMED (R68). -/
theorem freshIndicators_eq (d : DayState) : setBit 0 .cutArmed (d == .armed) = if d = .armed then 0x80#8 else 0#8 := by
  cases d <;> rfl

/-- Settles O36: one lemma for each check that fails, in the order of the checks; the sign-on itself reseats the station. -/
theorem signOnPutsAStationToWork : Obligations.SignOnPutsAStationToWork := by
  intro s tag n operator up
  refine ⟨fun m out => (exec_signOn _ s).trans (takeRequest_refused up rfl (signOn_outOfRange out)), ?_⟩
  rintro st fits _ rfl fields
  rw [signOn_fields_iff] at fields
  have refusal {e : Status} (bad : signOn ⟨stationNo st, operator, n⟩ s.quiet = .error e) :
      Refuses (.signOn ⟨tag, some ⟨stationNo st, operator, n⟩⟩) 0x28 tag e s :=
    (exec_signOn _ s).trans (takeRequest_refused up rfl bad)
  refine ⟨fun misfit => refusal ?_, fun fit vacant => ?_, fun fit signed => ?_, fun fit present running => ?_,
    fun fit present idle role named => ?_⟩
  · cases named : role? n with
    | none => exact signOn_noRole named
    | some role => exact signOn_badOperator named fun text => misfit (fields.mpr ⟨text, role, named⟩)
  · obtain ⟨text, role, named⟩ := fields.mp fit
    exact refusal (signOn_vacant named text vacant)
  · obtain ⟨text, role, named⟩ := fields.mp fit
    exact refusal (signOn_signedOn named text signed)
  · obtain ⟨text, role, named⟩ := fields.mp fit
    exact refusal (signOn_underTest named text present running)
  · have done := signOn_present (s := s.quiet) (role?_some.mpr named) (fields.mp fit).1 present idle
    rw [freshIndicators_eq] at done
    obtain ⟨presence, only, ink, slot, rest⟩ := State.reseat_replied s st _ _ (replyTo 0x28 tag .ok [.num 4 s.now]) rfl
    exact ⟨_, (exec_signOn _ s).trans (takeRequest_ok up rfl done), presence, only, ink, ink.symm ▸ slot, rest⟩

/-! ### SIGN OFF (R70, R71) -/

theorem exec_signOff (r : Req StationFields) (s : State) : exec (.signOff r) s = takeRequest 0x29 r s signOff := rfl

section SignOff

variable {s : State} {st : Station} {o : SignOn}

/-- A station that holds no till is kept from its sign-off by the transfers offered to it alone (R70). -/
theorem holdingTransfers_nil (signed : s.signOn? st = some o) (free : o.held = none)
    (none' : ∀ x ∈ s.tlu.transfers, x.offeredTo ≠ some st) : s.holdingTransfers st = [] := by
  have held : s.held st = none := by rw [State.held, signed, Option.bind_some, free]
  simpa [State.holdingTransfers, held, List.filter_eq_nil_iff] using none'

theorem JobState.unfinished_false {x : JobState} : x.unfinished = false ↔ x = .done ∨ x = .failed ∨ x = .cancelled := by
  cases x <;> simp [JobState.unfinished]

theorem unfinishedJobs_zero
    (ended : ∀ j ∈ s.pjq.jobs, j.station = st → j.state = .done ∨ j.state = .failed ∨ j.state = .cancelled) :
    s.unfinishedJobs st = 0 := by
  rw [State.unfinishedJobs, List.length_eq_zero_iff, List.filter_eq_nil_iff]
  intro j member
  by_cases its : j.station = st
  · simp [JobState.unfinished_false.mpr (ended j member its)]
  · simp [its]

theorem afterSignOff_eq (signed : s.signOn? st = some o) :
    (s.presence st).afterSignOff = if s.presence st = .signedOn o then .present else .vacant := by
  rcases State.signOn?_some.mp signed with atWork | ⟨g, lost⟩
  · simp [atWork, Presence.afterSignOff]
  · simp [lost, Presence.afterSignOff]

theorem signOff_done (signed : s.signOn? st = some o) (free : o.held = none) (offers : s.holdingTransfers st = [])
    (jobs : s.unfinishedJobs st = 0) :
    signOff ⟨stationNo st⟩ s = .ok (s.reseat st (if s.presence st = .signedOn o then .present else .vacant) 0#8, []) := by
  have clear : (s.holdingTransfers st).isEmpty = true := by rw [offers]; rfl
  simp only [signOff, station?_stationNo, require_some, ok_bind, signed, need_true clear, need_true free, need_true jobs,
    ← afterSignOff_eq signed]
  rfl

end SignOff

/-- Settles O37: with no till, offer or job in the way every check passes, and the sign-off reseats the station. -/
theorem signOffEndsTheSignOn : Obligations.SignOffEndsTheSignOn := by
  intro s tag st o up signed free offers jobs
  have done := signOff_done (s := s.quiet) signed free (holdingTransfers_nil signed free offers) (unfinishedJobs_zero jobs)
  exact ⟨_, (exec_signOff _ s).trans (takeRequest_ok up rfl done), State.reseat_replied s st _ _ _ rfl⟩

/-! ### STATION SETUP (R77) -/

theorem exec_stationSetup (r : Req StationSetupFields) (s : State) :
    exec (.stationSetup r) s = takeRequest 0x2A r s stationSetup := rfl

section StationSetup

variable {s : State} {st : Station} {rows columns charset mask : Nat}

theorem setup_unprotected (old given : Setup) (free : s.signOn? st = none) :
    setupAfter (s.presence st) old given = given ∧ keptCode (s.presence st) = 1 := by
  rcases State.signOn?_none.mp free with vacant | present
  · simp [vacant, setupAfter, keptCode]
  · simp [present, setupAfter, keptCode]

theorem setup_protected (old given : Setup) (signed : s.signOn? st ≠ none) :
    setupAfter (s.presence st) old given = { old with mask := given.mask } ∧ keptCode (s.presence st) = 2 := by
  obtain ⟨o, its⟩ := Option.ne_none_iff_exists'.mp signed
  rcases State.signOn?_some.mp its with atWork | ⟨g, lost⟩
  · simp [atWork, setupAfter, keptCode]
  · simp [lost, setupAfter, keptCode]

/-- The station's setup is `x`, and a change of it has filled the status slot (R95, log 21). -/
def State.resetup (s : State) (st : Station) (x : Setup) : State :=
  if x = (s.station st).setup then s.setStation st { s.station st with setup := x }
  else (s.setStation st { s.station st with setup := x }).fillSlot st

theorem stationSetup_done {k : Nat} {new : Setup} (low : 16 ≤ rows) (high : rows ≤ 25) (wide : columns = 40 ∨ columns = 80)
    (set : charset ≤ 3) (byte : mask < 256)
    (leaves : setupAfter (s.presence st) (s.station st).setup ⟨rows, columns, charset, BitVec.ofNat 8 mask⟩ = new ∧
      keptCode (s.presence st) = k) (masked : new.mask.toNat = mask) :
    stationSetup ⟨stationNo st, rows, columns, charset, mask⟩ s = .ok (s.resetup st new,
      [.num 1 k, .num 1 new.rows, .num 1 k, .num 1 new.columns, .num 1 k, .num 1 new.charset, .num 1 1, .num 1 mask]) := by
  obtain ⟨rfl, rfl⟩ := leaves
  rw [State.presence] at masked
  simp only [stationSetup, station?_stationNo, require_some, ok_bind,
    need_true (show _ ∧ _ ∧ _ ∧ _ ∧ _ from ⟨low, high, wide, set, byte⟩), masked]
  rfl

theorem State.resetup_station (s : State) (st x : Station) (new : Setup) :
    (s.resetup st new).station x = if x = st then { s.station st with setup := new } else s.station x := by
  rw [resetup]
  split
  · exact station_setStation ..
  · rw [fillSlot_station, station_setStation]

theorem State.resetup_line (s : State) (st x : Station) (new : Setup) :
    (s.resetup st new).line x = if x = st ∧ new ≠ (s.station st).setup
      then { s.line st with slot := some ⟨(s.line st).indicators, new⟩ } else s.line x := by
  rw [resetup]
  split
  · rw [if_neg fun h => h.2 ‹_›]
    rfl
  · rw [line_fillSlot, statusSet_eq, station_setStation_same]
    simp [‹¬ _›]
    rfl

theorem State.resetup_presence (s : State) (st x : Station) (new : Setup) :
    (s.resetup st new).presence x = s.presence x := by
  rw [presence, resetup_station]
  split
  · rename_i here
    rw [here]
    rfl
  · rfl

theorem State.resetup_slc {s : State} {st : Station} {new : Setup} (same : new = (s.station st).setup) :
    (s.resetup st new).slc = s.slc := by
  rw [resetup, if_pos same]
  rfl

theorem State.resetup_marks {s : State} {st : Station} {new : Setup} (changed : new ≠ (s.station st).setup) :
    MarksFrame st s (s.resetup st new) := by
  rw [resetup, if_neg changed]
  exact fillSlot_marks _ st

theorem State.resetup_rest (s : State) (st : Station) (new : Setup) :
    s.resetup st new = { s with stu := (s.resetup st new).stu, slc := (s.resetup st new).slc } := by
  rw [resetup]
  split
  · rfl
  · apply State.ext <;> simp

theorem State.resetup_keepsLine (s : State) (st : Station) (new : Setup) : KeepsLine s (s.resetup st new) := by
  rw [resetup]
  split
  · exact KeepsLine.refl s
  · exact fillSlot_keepsLine _ st

end StationSetup

/-- Settles O38: what a sign-on protects is decided by the presence; the slot is filled where the setup has changed. -/
theorem stationSetupKeepsWhatASignOnProtects : Obligations.StationSetupKeepsWhatASignOnProtects := by
  rintro s tag rows columns charset mask st _ new k up low high wide set byte rfl which
  have leaves : setupAfter (s.presence st) (s.station st).setup ⟨rows, columns, charset, BitVec.ofNat 8 mask⟩ = new ∧
      keptCode (s.presence st) = k := by
    rcases which with ⟨free, rfl, rfl⟩ | ⟨signed, rfl, rfl⟩
    · exact setup_unprotected _ _ free
    · exact setup_protected _ _ signed
  have masked : new.mask.toNat = mask := by
    rcases which with ⟨-, -, rfl⟩ | ⟨-, -, rfl⟩ <;> exact (BitVec.toNat_ofNat mask 8).trans (Nat.mod_eq_of_lt byte)
  have done := stationSetup_done (s := s.quiet) low high wide set byte leaves masked
  have stations := fun x => s.quiet.resetup_station st x new
  have lines := fun x => s.quiet.resetup_line st x new
  refine ⟨_, (exec_stationSetup _ s).trans (takeRequest_ok up rfl done),
    (congrArg StationRec.setup ((stations st).trans (if_pos rfl)) :), fun x away => (stations x).trans (if_neg away),
    s.quiet.resetup_presence st st new, fun changed => ⟨?_, State.resetup_marks (s := s.quiet) changed⟩,
    State.resetup_slc (s := s.quiet), fun x => ?_, fun x away => (lines x).trans (if_neg fun h => away h.1),
    s.quiet.resetup_keepsLine st new, ?_⟩
  · exact congrArg LineRec.slot ((lines st).trans (if_pos ⟨rfl, changed⟩))
  · refine (congrArg LineRec.indicators (lines x)).trans ?_
    split
    · rename_i h
      rw [h.1]
      rfl
    · rfl
  · conv => lhs; rw [s.quiet.resetup_rest st new]
    rfl

/-! ### A presence that the screen line changes, with its notice (R65 to R67) -/

namespace State

variable {s : State} {st : Station} {p : Presence} {n : Notice}

/-- The station's presence is `p`, and HLC is given the notice `n` of it. -/
def turns (s : State) (st : Station) (p : Presence) (n : Notice) : State := (s.setPresence st p).raise n

theorem turns_rest (s : State) (st : Station) (p : Presence) (n : Notice) :
    s.turns st p n = { s with stu := (s.setPresence st p).stu, hlc := (s.turns st p n).hlc } := by
  obtain ⟨-, only, -⟩ := (s.setPresence st p).raise_keeps n
  exact only

theorem turns_station (s : State) (st x : Station) (p : Presence) (n : Notice) :
    (s.turns st p n).station x = (s.setPresence st p).station x := by
  rw [turns_rest]
  rfl

theorem turns_presence (s : State) (st x : Station) (p : Presence) (n : Notice) :
    (s.turns st p n).presence x = if x = st then p else s.presence x := by
  rw [← presence_setPresence, presence, turns_station]
  rfl

theorem turns_only (s : State) (st : Station) (p : Presence) (n : Notice) : OnlyPresence st s (s.turns st p n) := by
  obtain ⟨setups, -⟩ := s.setPresence_only st p
  refine ⟨fun x => ?_, fun x away => by rw [turns_presence, if_neg away]⟩
  rw [turns_station, setups]

theorem turns_raises (s : State) (st : Station) (p : Presence) (n : Notice) :
    RaisesNotice ⟨s.now, n⟩ s (s.turns st p n) :=
  (s.setPresence st p).raise_raises n

/-- The presence and the notice of a station that is taken as absent (R66). -/
def TakenAbsent (s : State) (st : Station) (p : Presence) (n : Notice) : Prop :=
  s.presence st = .present ∧ p = .vacant ∧ n = .stationAbsent st ∨
    ∃ o, s.presence st = .signedOn o ∧ p = .lost o 600 ∧ n = .stationLost st o.operator o.held 600 false

theorem takenAbsent_of_counted (counted : s.countedPresent st = true) : ∃ p n, s.TakenAbsent st p n := by
  rcases countedPresent_true.mp counted with present | ⟨o, signed⟩
  · exact ⟨_, _, .inl ⟨present, rfl, rfl⟩⟩
  · exact ⟨_, _, .inr ⟨o, signed, rfl, rfl⟩⟩

theorem reportAbsent_turns (absent : s.TakenAbsent st p n) : s.reportAbsent st = s.turns st p n := by
  rcases absent with ⟨present, rfl, rfl⟩ | ⟨o, signed, rfl, rfl⟩
  · simp only [reportAbsent, present]
    rfl
  · simp only [reportAbsent, signed]
    rfl

/-- The presence and the notice of a station whose screen answers again (R65, R67). -/
def Answered (s : State) (st : Station) (p : Presence) (n : Notice) : Prop :=
  s.presence st = .vacant ∧ p = .present ∧ n = .stationPresent st ∨
    ∃ o g, s.presence st = .lost o g ∧ p = .signedOn o ∧ n = .stationReturned st o.operator o.held (600 - g)

theorem reportAnswered_turns (answered : s.Answered st p n) : s.reportAnswered st = s.turns st p n := by
  rcases answered with ⟨vacant, rfl, rfl⟩ | ⟨o, g, lost, rfl, rfl⟩
  · simp only [reportAnswered, vacant]
    rfl
  · simp only [reportAnswered, lost]
    rfl

/-! ### A missed reply (R89) -/

variable {sl : Slot}

theorem applyMiss_uncounted
    (out : ¬ (sl.dropped = false ∧ s.countedPresent sl.station = true ∧ (s.line sl.station).test.running = false))
    (noTest : sl.dropped = false → s.countedPresent sl.station = true → sl.stale = false → ∀ chars, sl.body ≠ .test chars) :
    s.applyMiss sl = s := by
  unfold applyMiss
  dsimp only
  split
  · rfl
  · rename_i seen
    obtain ⟨counted, kept⟩ : s.countedPresent sl.station = true ∧ sl.dropped = false := by simpa using seen
    split
    · exact absurd ‹_› (noTest kept counted ‹_› _)
    · rfl
    · exact absurd ⟨kept, counted, ‹_›⟩ out

theorem applyMiss_counted (kept : sl.dropped = false) (counted : s.countedPresent sl.station = true)
    (idle : (s.line sl.station).test.running = false) (noTest : sl.stale = false → ∀ chars, sl.body ≠ .test chars) :
    s.applyMiss sl = if (s.line sl.station).misses < 2
      then s.setLine sl.station { s.line sl.station with misses := (s.line sl.station).misses + 1 }
      else s.screenAbsent sl.station := by
  unfold applyMiss
  dsimp only
  rw [if_neg (by simp [counted, kept])]
  split
  · exact absurd ‹_› (noTest ‹_› _)
  · rename_i running _
    rw [idle] at running
    cases running
  · rfl

/-! ### Line record and presence changed together -/

section Turned

variable (s : State) (st : Station) (l : LineRec) (p : Presence) (n : Notice)

theorem setLine_turns_line (x : Station) : ((s.setLine st l).turns st p n).line x = if x = st then l else s.line x := by
  rw [← line_setLine, turns_rest]
  rfl

theorem setLine_turns_only : OnlyPresence st s ((s.setLine st l).turns st p n) := (s.setLine st l).turns_only st p n

theorem setLine_turns_raises : RaisesNotice ⟨s.now, n⟩ s ((s.setLine st l).turns st p n) := (s.setLine st l).turns_raises st p n

theorem setLine_turns_rest : (s.setLine st l).turns st p n = { s with
    stu := ((s.setLine st l).turns st p n).stu
    slc := { s.slc with lines := ((s.setLine st l).turns st p n).slc.lines }
    hlc := ((s.setLine st l).turns st p n).hlc } := by
  conv => lhs; rw [turns_rest]
  rw [turns_rest]
  rfl

end Turned

end State

/-! ### A screen taken as absent, and one that is back (R89, R90) -/

/-- The line record of a station whose screen is taken as absent (R89). -/
def LineRec.emptied (l : LineRec) : LineRec :=
  { l with output := [], input := [], slot := none, answer := .none, lastBit := none, misses := 0 }

/-- The line record of a station whose screen answers again, before its status slot is filled (R90). -/
def LineRec.revived (l : LineRec) : LineRec := { l with misses := 0, answer := .none, lastBit := none }

namespace State

variable {s : State} {st : Station} {p : Presence} {n : Notice}

theorem screenAbsent_turns (absent : s.TakenAbsent st p n) :
    s.screenAbsent st = (s.setLine st (s.line st).emptied).turns st p n :=
  reportAbsent_turns (s := s.setLine st (s.line st).emptied) absent

/-- The part once the screen of a station counted absent is back: its line record revived, its presence and notice given, and
its status slot filled (R90). -/
def revive (s : State) (st : Station) (p : Presence) (n : Notice) : State :=
  ((s.setLine st (s.line st).revived).turns st p n).fillSlot st

theorem answerAbsent_revives {sl : Slot} {r : ScreenReply} (answered : s.Answered sl.station p n) :
    s.answerAbsent sl r = (s.revive sl.station p n).handleContent sl.station r.content := by
  have back : (s.setLine sl.station (s.line sl.station).revived).reportAnswered sl.station = _ :=
    reportAnswered_turns (s := s.setLine sl.station (s.line sl.station).revived) answered
  exact congrArg (fun v : State => (v.fillSlot sl.station).handleContent sl.station r.content) back

theorem revive_line (s : State) (st x : Station) (p : Presence) (n : Notice) :
    (s.revive st p n).line x = if x = st
      then { (s.line st).revived with slot := some ⟨(s.line st).indicators, (s.station st).setup⟩ } else s.line x := by
  have setup := (s.setLine_turns_only st (s.line st).revived p n).1 st
  rw [revive, line_fillSlot, statusSet_eq, setup, setLine_turns_line, if_pos rfl, setLine_turns_line]
  split <;> rfl

theorem revive_presence (s : State) (st x : Station) (p : Presence) (n : Notice) :
    (s.revive st p n).presence x = if x = st then p else s.presence x :=
  (congrArg StationRec.presence (fillSlot_station _ st x)).trans (turns_presence _ st x p n)

theorem revive_only (s : State) (st : Station) (p : Presence) (n : Notice) : OnlyPresence st s (s.revive st p n) := by
  obtain ⟨setups, -⟩ := s.setLine_turns_only st (s.line st).revived p n
  exact ⟨fun x => (congrArg StationRec.setup (fillSlot_station _ st x)).trans (setups x),
    fun x away => (s.revive_presence st x p n).trans (if_neg away)⟩

theorem revive_raises (s : State) (st : Station) (p : Presence) (n : Notice) :
    RaisesNotice ⟨s.now, n⟩ s (s.revive st p n) := by
  have link : (s.revive st p n).hlc = ((s.setLine st (s.line st).revived).turns st p n).hlc := by simp [revive]
  rw [RaisesNotice, link]
  exact s.setLine_turns_raises st _ p n

theorem revive_rest (s : State) (st : Station) (p : Presence) (n : Notice) : s.revive st p n = { s with
    stu := (s.revive st p n).stu
    slc := { s.slc with lines := (s.revive st p n).slc.lines, slot := (s.revive st p n).slc.slot }
    hlc := (s.revive st p n).hlc } := by
  obtain ⟨v, turned⟩ : ∃ v, v = (s.setLine st (s.line st).revived).turns st p n := ⟨_, rfl⟩
  obtain ⟨u, filled⟩ : ∃ u, u = v.fillSlot st := ⟨_, rfl⟩
  have only := s.setLine_turns_rest st (s.line st).revived p n
  have slot := v.fillSlot_rest st
  rw [← turned] at only
  rw [← filled] at slot
  rw [revive, ← turned, ← filled, slot, only]

/-! ### The slot in progress ends -/

variable {sl : Slot}

theorem missReply_ends (out : s.slc.slot = some sl) : s.missReply = (s.applyMiss sl).endSlot := by
  simp only [missReply, out]

theorem missReply_still (closed : s.slc.slot = none) : s.missReply = s := by
  simp only [missReply, closed]

theorem takeReply_absent {r : ScreenReply} (out : s.slc.slot = some sl) (named : r.station = stationNo sl.station)
    (kept : sl.dropped = false) (away : s.countedPresent sl.station = false) :
    s.takeReply r = (s.answerAbsent sl r).endSlot := by
  have taken : ¬ (r.station ≠ stationNo sl.station ∨ sl.dropped = true) := by simp [named, kept]
  simp only [takeReply, out, if_neg taken, away, Bool.false_eq_true, if_false]

end State

theorem exec_slotReplyTimeout (s : State) : exec .slotReplyTimeout s = takeEvent s State.missReply := rfl
theorem exec_screenReply (r : ScreenReply) (s : State) : exec (.screenReply r) s = takeEvent s fun s => s.takeReply r := rfl

/-- Settles O43: the miss counts for nothing, is counted, or is the third and empties the station's line. -/
theorem missedRepliesAreCountedToAbsence : Obligations.MissedRepliesAreCountedToAbsence := by
  refine ⟨fun s closed => (exec_slotReplyTimeout s).trans
    (takeEvent_still fun _ => State.missReply_still (s := s.quiet) closed), ?_⟩
  rintro s sl _ counts live out rfl what noTest
  refine ⟨_, s.quiet.applyMiss sl, ((exec_slotReplyTimeout s).trans (takeEvent_live live)).trans
    (congrArg Host.Outcome.next (State.missReply_ends (s := s.quiet) out)), State.endSlot_begins _, ?_⟩
  by_cases counted : counts
  · obtain ⟨kept, present, idle⟩ := what.mp counted
    have miss := State.applyMiss_counted (s := s.quiet) kept present idle (noTest kept present)
    by_cases few : (s.line sl.station).misses < 2
    · have lines := fun x => s.quiet.line_setLine sl.station x
        { s.line sl.station with misses := (s.line sl.station).misses + 1 }
      rw [miss.trans (if_pos few)]
      exact ⟨fun x => ⟨rfl, fun away => ⟨rfl, (lines x).trans (if_neg away)⟩⟩, fun _ _ => ⟨rfl, s.quiet.line_setLine_same _ _, rfl⟩,
        fun _ many => absurd few (Nat.not_lt.mpr many), fun out => absurd counted out, rfl⟩
    · obtain ⟨p, n, absent⟩ := State.takenAbsent_of_counted present
      obtain ⟨l, empty⟩ : ∃ l, l = (s.line sl.station).emptied := ⟨_, rfl⟩
      have third : s.quiet.applyMiss sl = (s.quiet.setLine sl.station l).turns sl.station p n :=
        empty ▸ (miss.trans (if_neg few)).trans (State.screenAbsent_turns (s := s.quiet) absent)
      obtain ⟨setups, others⟩ := s.quiet.setLine_turns_only sl.station l p n
      have lines := fun x => s.quiet.setLine_turns_line sl.station l p n x
      have raises := s.quiet.setLine_turns_raises sl.station l p n
      have presence : ((s.quiet.setLine sl.station l).turns sl.station p n).presence sl.station = p :=
        (State.turns_presence ..).trans (if_pos rfl)
      rw [third]
      refine ⟨fun x => ⟨setups x, fun away => ⟨others x away, (lines x).trans (if_neg away)⟩⟩, fun _ less => absurd less few,
        fun _ _ => ?_, fun out => absurd counted out, s.quiet.setLine_turns_rest sl.station l p n⟩
      have line := ((lines sl.station).trans (if_pos rfl)).trans empty
      rcases absent with ⟨seen, rfl, rfl⟩ | ⟨o, signed, rfl, rfl⟩
      · rw [seen]
        exact ⟨presence, line, raises⟩
      · rw [signed]
        exact ⟨presence, line, raises⟩
  · rw [State.applyMiss_uncounted (s := s.quiet) (mt what.mpr counted) noTest]
    exact ⟨fun x => ⟨rfl, fun _ => ⟨rfl, rfl⟩⟩, fun yes => absurd yes counted, fun yes => absurd yes counted, fun _ => rfl, rfl⟩

/-- Settles O45: the screen is back before the content of its reply is taken, and then the slot ends. -/
theorem repliesBringScreensBack : Obligations.RepliesBringScreensBack := by
  rintro s sl _ r live out rfl named kept away
  have brought (p : Presence) (n : Notice) (answered : s.Answered sl.station p n) :
      exec (.screenReply r) s = .next ((s.quiet.revive sl.station p n).handleContent sl.station r.content).endSlot := by
    rw [exec_screenReply, takeEvent_live live, State.takeReply_absent (s := s.quiet) out named kept away,
      State.answerAbsent_revives (s := s.quiet) answered]
  have whole (p : Presence) (n : Notice) (answered : s.Answered sl.station p n) :
      ∃ u w v : State, exec (.screenReply r) s = .next u ∧ SlotBegins v u ∧ TakesContent r.content sl.station w v ∧
        OnlyPresence sl.station s w ∧ w.presence sl.station = p ∧
        w.line sl.station = { s.line sl.station with
          misses := 0, answer := .none, lastBit := none
          slot := some { indicators := (s.line sl.station).indicators, setup := (s.station sl.station).setup } } ∧
        (∀ x : Station, x ≠ sl.station → w.line x = s.line x) ∧ RaisesNotice ⟨s.now, n⟩ s w ∧
        w = { s with
          sent := [], stu := w.stu, slc := { s.slc with lines := w.slc.lines, slot := w.slc.slot }, hlc := w.hlc } :=
    ⟨_, _, _, brought p n answered, State.endSlot_begins _, State.handleContent_takes _ _ _, s.quiet.revive_only sl.station p n,
      (s.quiet.revive_presence sl.station sl.station p n).trans (if_pos rfl),
      (s.quiet.revive_line sl.station sl.station p n).trans (if_pos rfl),
      fun x other => (s.quiet.revive_line sl.station x p n).trans (if_neg other), s.quiet.revive_raises sl.station p n,
      s.quiet.revive_rest sl.station p n⟩
  rcases State.countedPresent_false.mp away with vacant | ⟨o, g, lost⟩
  · rw [vacant]
    exact whole _ _ (.inl ⟨vacant, rfl, rfl⟩)
  · rw [lost]
    exact whole _ _ (.inr ⟨o, g, lost, rfl, rfl⟩)

end Sys2Proof.Machine
end

