-- ==== Sys2Proof/Proofs/ScreenLine.lean ====
section
/-! SUPPORT. The screen line controller: updates and input entries, line tests, the scan range, and the replies of stations counted
present (05). -/

namespace Sys2Proof.Machine

open Sys2Proof

/-! ### One line record written within a request -/

/-- The part after a request that writes one station's line record and is answered with `reply`. -/
theorem State.setLine_replied {u : State} (s : State) (st : Station) (l : LineRec) (reply : Sent)
    (after : u = (s.quiet.setLine st l).emit reply) :
    u.line st = l ∧ (∀ x : Station, x ≠ st → u.line x = s.line x) ∧
      u = { s with sent := [reply], slc := { s.slc with lines := u.slc.lines } } := by
  subst after
  exact ⟨s.quiet.line_setLine_same st l, fun x away => (s.quiet.line_setLine st x l).trans (if_neg away), rfl⟩

/-! ### DISPLAY (R92) -/

theorem exec_display (r : Req DisplayFields) (s : State) : exec (.display r) s = takeRequest 0x30 r s display := rfl

theorem display_queued {s : State} {st : Station} {row column attr : Nat} {text : Text} {setup : Setup}
    (seen : s.countedPresent st = true) (its : setup = (s.station st).setup)
    (form : attr ≤ 2 ∧ 1 ≤ text.length ∧ text.length ≤ 80)
    (place : 1 ≤ row ∧ row ≤ setup.rows ∧ 1 ≤ column ∧ column ≤ setup.columns ∧ column + text.length - 1 ≤ setup.columns ∧
      text.all (inCharset setup.charset) = true)
    (room : (s.line st).output.length < 8) :
    display ⟨stationNo st, row, column, attr, text⟩ s =
      .ok (s.setLine st { s.line st with output := (s.line st).output ++ [⟨row, column, attr, text⟩] },
        [.num 1 ((s.line st).output.length + 1)]) := by
  have space : (s.line st).output.length < Config.outputCapacity := room
  subst its
  simp only [display, station?_stationNo, require_some, ok_bind, need_true form, need_true seen, need_true place,
    need_true space, List.length_append, List.length_singleton]
  rfl

/-- Settles O39: every check of DISPLAY passes, and the update goes to the end of the queue. -/
theorem displayQueuesAnUpdate : Obligations.DisplayQueuesAnUpdate := by
  intro s tag row column attr st text setup up present its attrs one most row1 rowN column1 columnN ends set room
  have done := display_queued (s := s.quiet) (State.countedPresent_true.mpr present) its ⟨attrs, one, most⟩
    ⟨row1, rowN, column1, columnN, by omega, List.all_eq_true.mpr set⟩ room
  exact ⟨_, (exec_display _ s).trans (takeRequest_ok up rfl done), State.setLine_replied s st _ _ rfl⟩

/-! ### What fits a reply's room -/

theorem fitting_le_length (room : Nat) (sizes : List Nat) : fitting room sizes ≤ sizes.length := by
  induction sizes generalizing room with
  | nil => exact Nat.le_refl 0
  | cons n rest ih =>
    have := ih (room - n)
    simp only [fitting, List.length_cons]
    split <;> omega

/-- The sizes that fit fill the room at most. -/
theorem sum_take_fitting_le (room : Nat) (sizes : List Nat) : (sizes.take (fitting room sizes)).sum ≤ room := by
  induction sizes generalizing room with
  | nil => exact Nat.zero_le room
  | cons n rest ih =>
    have := ih (room - n)
    simp only [fitting]
    split
    · rw [Nat.add_comm, List.take_succ_cons, List.sum_cons]
      omega
    · exact Nat.zero_le room

/-- One size more than those that fit is too many. -/
theorem lt_sum_take_fitting_succ (room : Nat) (sizes : List Nat) (more : fitting room sizes < sizes.length) :
    room < (sizes.take (fitting room sizes + 1)).sum := by
  induction sizes generalizing room with
  | nil => cases more
  | cons n rest ih =>
    simp only [fitting, List.length_cons] at more ⊢
    rw [List.take_succ_cons, List.sum_cons]
    split at more
    · have := ih (room - n) (by omega)
      rw [if_pos ‹_›, Nat.add_comm 1]
      omega
    · omega

/-! ### READ INPUT (R94) -/

/-- How many of the oldest entries one READ INPUT returns: at most `maximum`, and as many as fit the reply beside its count, the
number returned and the flag (R94). -/
def inputTaken (maximum : Nat) (queue : List InputEntry) : Nat :=
  fitting 508 ((queue.take maximum).map InputEntry.size)

section ReadInput

variable {maximum : Nat} {queue : List InputEntry}

theorem inputTaken_le : inputTaken maximum queue ≤ maximum ∧ inputTaken maximum queue ≤ queue.length := by
  have := fitting_le_length 508 ((queue.take maximum).map InputEntry.size)
  rw [List.length_map, List.length_take] at this
  exact Nat.le_min.mp this

/-- The first entries of the queue are the first of those the maximum allows. -/
theorem map_size_take {n : Nat} (few : n ≤ maximum) :
    ((queue.take maximum).map InputEntry.size).take n = (queue.take n).map InputEntry.size := by
  rw [← List.map_take, List.take_take, Nat.min_eq_left few]

theorem inputTaken_fits : ((queue.take (inputTaken maximum queue)).map InputEntry.size).sum + 3 ≤ 511 := by
  rw [← map_size_take inputTaken_le.1]
  exact Nat.add_le_add_right (sum_take_fitting_le 508 _) 3

theorem inputTaken_most (fewer : inputTaken maximum queue < maximum) (left : inputTaken maximum queue < queue.length) :
    511 < ((queue.take (inputTaken maximum queue + 1)).map InputEntry.size).sum + 3 := by
  have more : inputTaken maximum queue < ((queue.take maximum).map InputEntry.size).length := by
    rw [List.length_map, List.length_take]
    exact Nat.lt_min.mpr ⟨fewer, left⟩
  rw [← map_size_take fewer]
  exact Nat.add_lt_add_right (lt_sum_take_fitting_succ 508 _ more) 3

theorem isEmpty_drop_not {α : Type} (xs : List α) (n : Nat) : (!(xs.drop n).isEmpty) = decide (n < xs.length) := by
  rw [Bool.eq_iff_iff]
  simp

theorem exec_readInput (r : Req ReadInputFields) (s : State) : exec (.readInput r) s = takeRequest 0x31 r s readInput := rfl

theorem readInput_taken {s : State} {st : Station} (range : 1 ≤ maximum ∧ maximum ≤ 16) (its : queue = (s.line st).input) :
    readInput ⟨stationNo st, maximum⟩ s =
      .ok (s.setLine st { s.line st with input := queue.drop (inputTaken maximum queue) },
        [.num 1 (inputTaken maximum queue)] ++ ((queue.take (inputTaken maximum queue)).map InputEntry.items).flatten ++
          [.num 1 (inputTaken maximum queue), flag (decide (inputTaken maximum queue < queue.length))]) := by
  have number : (queue.take (inputTaken maximum queue)).length = inputTaken maximum queue :=
    List.length_take_of_le inputTaken_le.2
  subst its
  have n : fitting (Config.replyRoom - 3) (((s.line st).input.take maximum).map InputEntry.size) =
    inputTaken maximum (s.line st).input := rfl
  simp only [readInput, station?_stationNo, require_some, ok_bind, need_true range, n, listOf, number, isEmpty_drop_not]
  rfl

end ReadInput

/-- Settles O40: what `fitting` says of the entries within the maximum holds of the queue itself. -/
theorem readInputTakesTheOldestEntries : Obligations.ReadInputTakesTheOldestEntries := by
  intro s tag maximum st queue up one most its
  have done := readInput_taken (s := s.quiet) ⟨one, most⟩ its
  obtain ⟨allowed, held⟩ := inputTaken_le (maximum := maximum) (queue := queue)
  exact ⟨_, inputTaken maximum queue, (exec_readInput _ s).trans (takeRequest_ok up rfl done), allowed, held,
    inputTaken_fits, inputTaken_most, State.setLine_replied s st _ _ rfl⟩

/-! ### LINE TEST START and LINE TEST STOP (R97, R99) -/

namespace State

theorem staleSlot_slc (s : State) (st : Station) :
    (s.staleSlot st).slc = { s.slc with slot := (s.staleSlot st).slc.slot } := by
  unfold staleSlot
  (repeat' split) <;> rfl

theorem staleSlot_line (s : State) (st x : Station) : (s.staleSlot st).line x = s.line x := by
  rw [line, staleSlot_slc]
  rfl

theorem staleSlot_rest (s : State) (st : Station) :
    s.staleSlot st = { s with slc := { s.slc with slot := (s.staleSlot st).slc.slot } } := by
  rw [← staleSlot_slc]
  apply State.ext <;> simp

/-- The part after a request that writes the line record of a station, whose slot in progress counts for no test from then on, and
is answered with `reply`. -/
theorem testSet_replied {u : State} (s : State) (st : Station) (l : LineRec) (reply : Sent)
    (after : u = ((s.quiet.setLine st l).staleSlot st).emit reply) :
    u.line st = l ∧ (∀ x : Station, x ≠ st → u.line x = s.line x) ∧
      u = { s with sent := [reply], slc := { s.slc with lines := u.slc.lines, slot := u.slc.slot } } := by
  have lines : ∀ x, u.line x = (s.quiet.setLine st l).line x := fun x => by
    rw [after]
    exact staleSlot_line _ st x
  refine ⟨(lines st).trans (line_setLine_same ..), fun x away => (lines x).trans ((line_setLine ..).trans (if_neg away)), ?_⟩
  subst after
  rw [staleSlot_rest]
  rfl

end State

section LineTests

variable {s : State} {st : Station}

theorem exec_lineTestStart (r : Req StationFields) (s : State) :
    exec (.lineTestStart r) s = takeRequest 0x32 r s lineTestStart := rfl
theorem exec_lineTestStop (r : Req StationFields) (s : State) :
    exec (.lineTestStop r) s = takeRequest 0x33 r s lineTestStop := rfl

theorem lineTestStart_started (inside : InScan s.slc.first s.slc.last st) (present : s.presence st = .present)
    (idle : (s.line st).test.running = false) :
    lineTestStart ⟨stationNo st⟩ s = .ok ((s.setLine st
      { s.line st with misses := 0, test := ⟨true, 0, 0, false, false, 0x7FFF#15⟩ }).staleSlot st, []) := by
  have scanned : st ∈ scanOrder s.slc.first s.slc.last := ((State.scanOrder_scans _ _).1 st).mpr inside
  have seen : s.presence st ≠ .vacant := by simp [present]
  simp only [lineTestStart, station?_stationNo, require_some, ok_bind, need_true scanned, need_true seen, need_true present,
    need_true idle]
  rfl

theorem lineTestStop_stopped (running : (s.line st).test.running = true) :
    lineTestStop ⟨stationNo st⟩ s = .ok ((s.setLine st
        { s.line st with misses := 0, test := { (s.line st).test with running := false } }).staleSlot st,
      lineTestItems (s.line st).test) := by
  simp only [lineTestStop, station?_stationNo, require_some, ok_bind, need_true running]
  rfl

end LineTests

/-! ### The count of a TEST frame (R98) -/

/-- An echo of the frame's length is errored where it differs from it. -/
theorem differing_eq_length_filter {chars back : Text} (same : back.length = chars.length) :
    differing chars back = ((List.range chars.length).filter fun i => back[i]? ≠ chars[i]?).length := by
  induction chars generalizing back with
  | nil => rfl
  | cons a as ih =>
    cases back with
    | nil => cases same
    | cons b bs =>
      have first : (b :: bs)[0]? = (a :: as)[0]? ↔ b = a := Option.some_inj
      have later : (((List.range as.length).map Nat.succ).filter fun i => (b :: bs)[i]? ≠ (a :: as)[i]?).length =
          differing as bs := by
        rw [List.filter_map, List.length_map, ih (Nat.succ.inj same)]
        rfl
      rw [differing, List.length_cons, List.range_succ_eq_map, List.filter_cons]
      by_cases equal : a = b
      · have alike : decide ((b :: bs)[0]? ≠ (a :: as)[0]?) = false := decide_eq_false (not_not_intro (first.mpr equal.symm))
        rw [if_pos equal, alike, if_neg Bool.false_ne_true, later, Nat.zero_add]
      · have unlike : decide ((b :: bs)[0]? ≠ (a :: as)[0]?) = true :=
          decide_eq_true fun same => equal (first.mp same).symm
        rw [if_neg equal, unlike, if_pos rfl, List.length_cons, later, Nat.add_comm]

theorem erroredIn_echo {chars back : Text} (full : chars.length = 16) :
    erroredIn chars (some back) = if back.length = 16
      then ((List.range 16).filter fun i => back[i]? ≠ chars[i]?).length else 16 := by
  simp only [erroredIn]
  split
  · rw [differing_eq_length_filter (by omega), full]
  · rfl

namespace State

theorem echoOf_none {c : ReplyContent} (without : ∀ back, c ≠ .echo back) : echoOf c = none := by
  cases c with
  | nothing => rfl
  | entry => rfl
  | echo back => exact absurd rfl (without back)

theorem setLine_setLine (s : State) (st : Station) (l m : LineRec) : (s.setLine st l).setLine st m = s.setLine st m := by
  simp [setLine]

/-- A TEST frame's errored characters have entered the record of station `st`, whose miss counter stands at `misses` (R98). -/
def tested (s : State) (st : Station) (misses errs : Nat) : State :=
  s.setLine st { s.line st with misses := misses, test := (s.line st).test.count errs }

variable {s : State} {sl : Slot} {r : ScreenReply} {chars : Text}

theorem applyMiss_tested (kept : sl.dropped = false) (counted : s.countedPresent sl.station = true) (fresh : sl.stale = false)
    (frame : sl.body = .test chars) : s.applyMiss sl = s.tested sl.station (s.line sl.station).misses 16 := by
  simp only [applyMiss, counted, kept, fresh, frame]
  rfl

theorem applyReply_tested (fresh : sl.stale = false) (frame : sl.body = .test chars) :
    s.applyReply sl r = s.tested sl.station 0 (erroredIn chars (echoOf r.content)) := by
  simp only [applyReply, fresh, frame, setTest, line_setLine_same, setLine_setLine]
  rfl

theorem takeReply_present (out : s.slc.slot = some sl) (named : r.station = stationNo sl.station) (kept : sl.dropped = false)
    (counted : s.countedPresent sl.station = true) : s.takeReply r = (s.applyReply sl r).endSlot := by
  have taken : ¬ (r.station ≠ stationNo sl.station ∨ sl.dropped = true) := by simp [named, kept]
  simp only [takeReply, out, if_neg taken, counted, if_true]

end State

/-- The next slot moves the generator of a line test at most, and with the line record and the frame out nothing else. -/
theorem SlotBegins.keeps {v u : State} (begins : SlotBegins v u) :
    (∀ x : Station, ∃ g, u.line x = { v.line x with test := { (v.line x).test with generator := g } }) ∧
      u = { v with sent := u.sent, slc := u.slc } := by
  obtain ⟨st, body, test, frame, -, -, here, others, only⟩ := begins
  obtain ⟨testing, still, -, -⟩ := frame
  refine ⟨fun x => ?_, ?_⟩
  · by_cases at' : x = st
    · subst at'
      by_cases runs : v.countedPresent x = true ∧ (v.line x).test.running = true
      · obtain ⟨-, -, -, -, moved⟩ := testing runs
        exact ⟨test.generator, here.trans (congrArg (fun t => { v.line x with test := t }) moved)⟩
      · exact ⟨(v.line x).test.generator, here.trans (congrArg (fun t => { v.line x with test := t }) (still runs))⟩
    · exact ⟨(v.line x).test.generator, others x at'⟩
  · rw [only]

/-- The record of a station whose TEST frame has been counted, once the next slot has begun. -/
theorem State.tested_ended (s : State) (st : Station) (misses errs : Nat) {u : State}
    (ended : u = (s.quiet.tested st misses errs).endSlot) :
    (u.line st).misses = misses ∧ (u.line st).test.running = (s.line st).test.running ∧
      (u.line st).test.frames = min 65535 ((s.line st).test.frames + 1) ∧
      (u.line st).test.errored = min 255 ((s.line st).test.errored + errs) ∧ (u.line st).test.live = decide (0 < errs) ∧
      (u.line st).test.sticky = ((s.line st).test.sticky || decide (0 < errs)) ∧ (u.line st).input = (s.line st).input ∧
      (u.line st).output = (s.line st).output ∧ u = { s with sent := u.sent, slc := u.slc } := by
  obtain ⟨lines, only⟩ := (State.endSlot_begins (s.quiet.tested st misses errs)).keeps
  rw [← ended] at lines only
  obtain ⟨g, here⟩ := lines st
  rw [State.tested, State.line_setLine_same] at here
  rw [here]
  exact ⟨rfl, rfl, rfl, rfl, rfl, rfl, rfl, rfl, only⟩

/-- Settles O41: the requests write the test's record and the mark of the slot in progress, and each end of a TEST frame's slot
counts the frame before the next slot begins. -/
theorem lineTestsStartAfreshCountAndStop : Obligations.LineTestsStartAfreshCountAndStop := by
  rintro s tag st l up rfl
  refine ⟨fun inside present idle => ?_, fun running => ?_, ?_⟩
  · have done := lineTestStart_started (s := s.quiet) inside present idle
    exact ⟨_, (exec_lineTestStart _ s).trans (takeRequest_ok up rfl done), State.testSet_replied s st _ _ rfl⟩
  · have done := lineTestStop_stopped (s := s.quiet) running
    exact ⟨_, (exec_lineTestStop _ s).trans (takeRequest_ok up rfl done), State.testSet_replied s st _ _ rfl⟩
  rintro sl c chars errs misses out rfl frame fresh kept counted full way
  obtain ⟨live, -⟩ : s.live = true ∧ _ := Bool.and_eq_true_iff.mp up
  have ended : exec c s = .next (s.quiet.tested sl.station misses errs).endSlot := by
    have replied (r : ScreenReply) (named : r.station = stationNo sl.station) : exec (.screenReply r) s =
        .next (s.quiet.tested sl.station 0 (erroredIn chars (State.echoOf r.content))).endSlot := by
      rw [exec_screenReply, takeEvent_live live, State.takeReply_present (s := s.quiet) out named kept counted,
        State.applyReply_tested fresh frame]
    rcases way with ⟨rfl, rfl, rfl⟩ | ⟨r, rfl, named, without, rfl, rfl⟩ | ⟨r, back, rfl, named, echo, rfl, rfl⟩
    · rw [exec_slotReplyTimeout, takeEvent_live live, State.missReply_ends (s := s.quiet) out,
        State.applyMiss_tested (s := s.quiet) kept counted fresh frame]
      rfl
    · rw [replied r named, State.echoOf_none without]
      rfl
    · rw [replied r named, echo, ← erroredIn_echo full]
      rfl
  exact ⟨_, ended, State.tested_ended s sl.station misses errs rfl⟩

/-! ### A reply of a station counted present (R88, R92, R96) -/

/-- The line record of a station whose slot `sl` a reply settles, before what the reply carries is taken: the miss counter is
clear, an acknowledged update has left the queue, and the status slot is empty where its frame was out and it has not been filled
again (R88, R92, R96). -/
def LineRec.settled (l : LineRec) (sl : Slot) (ack : Bool) : LineRec :=
  { l with
    misses := 0
    output := match sl.body with | .update _ => if ack then l.output.drop 1 else l.output | _ => l.output
    slot := match sl.body with | .status _ => if sl.refilled then l.slot else none | _ => l.slot }

namespace State

variable {s : State} {sl : Slot} {r : ScreenReply}

/-- The slot's frame is settled (R88). -/
def settleSlot (s : State) (sl : Slot) (ack : Bool) : State :=
  s.setLine sl.station ((s.line sl.station).settled sl ack)

theorem applyReply_ordinary (ordinary : ∀ chars, sl.body ≠ .test chars) :
    s.applyReply sl r = (s.settleSlot sl r.ack).handleContent sl.station r.content := by
  cases frame : sl.body with
  | poll => simp only [applyReply, frame, settleSlot, LineRec.settled]
  | status set =>
    cases again : sl.refilled <;> simp [applyReply, frame, again, settleSlot, LineRec.settled, setLine_setLine]
  | update x =>
    cases acked : r.ack <;> simp [applyReply, frame, acked, settleSlot, LineRec.settled, setLine_setLine]
  | test chars => exact absurd frame (ordinary chars)

/-- A reply to a TEST frame whose test has ended clears the miss counter alone (log 17). -/
theorem applyReply_ended {chars : Text} (frame : sl.body = .test chars) (ended : sl.stale = true) :
    s.applyReply sl r = s.settleSlot sl r.ack := by
  simp only [applyReply, frame, ended, if_true, settleSlot, LineRec.settled]

theorem takeReply_discards
    (other : ∀ sl : Slot, s.slc.slot = some sl → r.station ≠ stationNo sl.station ∨ sl.dropped = true) :
    s.takeReply r = s := by
  unfold takeReply
  cases out : s.slc.slot with
  | none => rfl
  | some sl => exact if_pos (other sl out)

end State

/-- Settles O44: the slot is settled, then what the reply carries is taken where the frame was no TEST frame, and the next slot
begins. -/
theorem repliesSettleTheirSlots : Obligations.RepliesSettleTheirSlots := by
  refine ⟨fun s r other => (exec_screenReply r s).trans
    (takeEvent_still fun _ => State.takeReply_discards (s := s.quiet) fun sl out => .inl (other sl out)), ?_⟩
  rintro s sl _ r _ live out rfl named kept rfl counted noTest
  obtain ⟨v, applied, ended, content⟩ : ∃ v, s.quiet.applyReply sl r = v ∧
      (∀ chars, sl.body = .test chars → v = s.quiet.settleSlot sl r.ack) ∧
      ((∀ chars, sl.body ≠ .test chars) → TakesContent r.content sl.station (s.quiet.settleSlot sl r.ack) v) := by
    by_cases test : ∃ chars, sl.body = .test chars
    · obtain ⟨chars, frame⟩ := test
      have stale : sl.stale = true := Bool.of_not_eq_false fun fresh => noTest fresh chars frame
      exact ⟨_, State.applyReply_ended frame stale, fun _ _ => rfl, fun ordinary => absurd frame (ordinary chars)⟩
    · have ordinary := not_exists.mp test
      exact ⟨_, State.applyReply_ordinary ordinary, fun chars frame => absurd frame (ordinary chars),
        fun _ => State.handleContent_takes _ _ _⟩
  have lines := fun x => s.quiet.line_setLine sl.station x ((s.line sl.station).settled sl r.ack)
  refine ⟨_, s.quiet.settleSlot sl r.ack, v, ?_, State.endSlot_begins v, fun x away => (lines x).trans (if_neg away),
    (lines sl.station).trans (if_pos rfl), rfl, ended, content⟩
  rw [exec_screenReply, takeEvent_live live, State.takeReply_present (s := s.quiet) out named kept counted, applied]

/-! ### Screens taken as absent together (R100) -/

/-- The PRESENT stations of `gone` have been taken as absent, each with its notice, in the order of the list (R89, R100). -/
structure TakesAbsent (gone : List Station) (s u : State) : Prop where
  lines : ∀ x : Station, u.line x = if x ∈ gone then (s.line x).emptied else s.line x
  presences : ∀ x : Station, u.presence x = if x ∈ gone then .vacant else s.presence x
  setups : ∀ x : Station, (u.station x).setup = (s.station x).setup
  link : KeepsLink s u
  notices : s.hlc.notices.length + gone.length ≤ 32 →
    u.hlc.notices = s.hlc.notices ++ gone.map fun x => ⟨s.now, .stationAbsent x⟩
  only : u = { s with stu := u.stu, slc := { s.slc with lines := u.slc.lines }, hlc := u.hlc }

theorem TakesAbsent.nil (s : State) : TakesAbsent [] s s where
  lines _ := rfl
  presences _ := rfl
  setups _ := rfl
  link := rfl
  notices _ := (List.append_nil _).symm
  only := rfl

theorem TakesAbsent.cons {gone : List Station} {s v u : State} {st : Station} (others : st ∉ gone)
    (first : TakesAbsent [st] s v) (rest : TakesAbsent gone v u) : TakesAbsent (st :: gone) s u where
  lines x := by
    rw [rest.lines, first.lines]
    by_cases here : x = st <;> simp [here, others]
  presences x := by
    rw [rest.presences, first.presences]
    by_cases here : x = st <;> simp [here, others]
  setups x := (rest.setups x).trans (first.setups x)
  link := by
    have := rest.link
    rw [KeepsLink, first.link] at this
    exact this
  notices room := by
    rw [List.length_cons] at room
    have one := first.notices (by rw [List.length_singleton]; omega)
    have now : v.now = s.now := by rw [State.now, first.link, State.now]
    rw [rest.notices (by rw [one, List.length_append, List.length_map, List.length_singleton]; omega), one, now,
      List.append_assoc, ← List.map_append, List.singleton_append]
  only := by rw [rest.only, first.only]

/-- Where the PRESENT stations outside a range have been taken as absent and none outside is signed on, those outside are VACANT
and those inside as they were (R100). -/
theorem TakesAbsent.clears {gone : List Station} {s u : State} {first last : Station} (absent : TakesAbsent gone s u)
    (member : ∀ x : Station, x ∈ gone ↔ ¬ InScan first last x ∧ s.presence x = .present)
    (free : ∀ x : Station, ¬ InScan first last x → s.signOn? x = none) :
    (∀ x : Station, InScan first last x → u.presence x = s.presence x ∧ u.line x = s.line x) ∧
      ∀ x : Station, ¬ InScan first last x → u.presence x = .vacant ∧
        (s.presence x = .present → u.line x = (s.line x).emptied) := by
  have taken {x : Station} (outside : ¬ InScan first last x) (present : s.presence x = .present) : x ∈ gone :=
    (member x).mpr ⟨outside, present⟩
  refine ⟨fun x within => ?_, fun x outside =>
    ⟨?_, fun present => (absent.lines x).trans (if_pos (taken outside present))⟩⟩
  · have stays : x ∉ gone := fun left => ((member x).mp left).1 within
    exact ⟨(absent.presences x).trans (if_neg stays), (absent.lines x).trans (if_neg stays)⟩
  · rw [absent.presences]
    rcases State.signOn?_none.mp (free x outside) with vacant | present
    · rw [vacant, ite_self]
    · rw [if_pos (taken outside present)]

namespace State

/-- One PRESENT station is taken as absent: its line record is emptied, and its notice given (R66, R89). -/
theorem screenAbsent_takes {s : State} {st : Station} (present : s.presence st = .present) :
    TakesAbsent [st] s (s.screenAbsent st) := by
  have lines := fun x => s.setLine_turns_line st (s.line st).emptied .vacant (.stationAbsent st) x
  have presences := (s.setLine st (s.line st).emptied).turns_presence st
  obtain ⟨setups, -⟩ := s.setLine_turns_only st (s.line st).emptied .vacant (.stationAbsent st)
  obtain ⟨link, -, notices⟩ := ((s.setLine st (s.line st).emptied).setPresence st .vacant).raise_keeps (.stationAbsent st)
  rw [screenAbsent_turns (.inl ⟨present, rfl, rfl⟩)]
  refine ⟨fun x => ?_, fun x => ?_, setups, link, notices, s.setLine_turns_rest st _ _ _⟩
  · rw [lines]
    by_cases here : x = st
    · rw [if_pos here, if_pos (List.mem_singleton.mpr here), here]
    · rw [if_neg here, if_neg (mt List.mem_singleton.mp here)]
  · simp only [List.mem_singleton]
    exact presences x _ _

theorem foldl_screenAbsent_takes {gone : List Station} (s : State) (distinct : gone.Nodup)
    (present : ∀ x ∈ gone, s.presence x = .present) :
    TakesAbsent gone s (gone.foldl (fun (s : State) st => s.screenAbsent st) s) := by
  induction gone generalizing s with
  | nil => exact .nil s
  | cons st gone ih =>
    obtain ⟨others, distinct⟩ := List.nodup_cons.mp distinct
    have first := screenAbsent_takes (present st (List.mem_cons_self ..))
    refine .cons others first (ih _ distinct fun x member => ?_)
    have away : x ≠ st := fun same => others (same ▸ member)
    rw [first.presences, if_neg (by simpa using away)]
    exact present x (List.mem_cons_of_mem st member)

/-! ### SCAN SET (R100) -/

theorem dropOutside_slot (s : State) (range : List Station) :
    (s.slc.slot = none → (s.dropOutside range).slc.slot = none) ∧
      ∀ sl : Slot, s.slc.slot = some sl → (sl.station ∈ range → (s.dropOutside range).slc.slot = some sl) ∧
        (sl.station ∉ range → (s.dropOutside range).slc.slot = some { sl with dropped := true }) := by
  refine ⟨fun closed => ?_, fun sl out => ⟨fun inside => ?_, fun outside => ?_⟩⟩
  · simp [dropOutside, closed]
  · simp [dropOutside, out, inside]
  · simp [dropOutside, out, outside]

theorem dropOutside_rest (s : State) (range : List Station) : s.dropOutside range =
    { s with slc := { s.slc with slot := (s.dropOutside range).slc.slot } } := by
  unfold dropOutside
  (repeat' split) <;> rfl

/-- The stations that SCAN SET takes as absent, in ascending order: those outside the range that are counted present (R100). -/
def leftOut (s : State) (range : List Station) : List Station :=
  (List.finRange 12).filter fun st => !range.contains st && s.countedPresent st

/-- The range is set, and the walk of the round ends (R100). -/
def rescan (s : State) (first last : Station) : State :=
  { s with slc := { s.slc with first := first, last := last, walk := [] } }

theorem leftOut_pairwise (s : State) (range : List Station) : (s.leftOut range).Pairwise (· < ·) :=
  (List.pairwise_lt_finRange 12).filter _

theorem leftOut_nodup (s : State) (range : List Station) : (s.leftOut range).Nodup :=
  (List.nodup_finRange 12).filter _

theorem mem_leftOut {s : State} {first last : Station} (free : ∀ x : Station, ¬ InScan first last x → s.signOn? x = none)
    (x : Station) : x ∈ s.leftOut (scanOrder first last) ↔ ¬ InScan first last x ∧ s.presence x = .present := by
  have inside := (scanOrder_scans first last).1 x
  have counted : x ∈ s.leftOut (scanOrder first last) ↔ ¬ InScan first last x ∧ s.countedPresent x = true := by
    rw [← inside]
    simp [leftOut]
  rw [counted]
  refine and_congr_right fun outside => ?_
  rcases signOn?_none.mp (free x outside) with vacant | present
  · simp [countedPresent, vacant]
  · simp [countedPresent, present]

end State

theorem listOf_single {α : Type} (xs : List α) (f : α → Item) :
    listOf xs (fun x => [f x]) = .num 1 xs.length :: xs.map f := by
  rw [List.map_eq_flatMap]
  rfl

theorem exec_scanSet (r : Req ScanSetFields) (s : State) : exec (.scanSet r) s = takeRequest 0x34 r s scanSet := rfl

theorem scanSet_set {s : State} {first last : Station}
    (free : ∀ x : Station, ¬ InScan first last x → s.signOn? x = none ∧ (s.line x).test.running = false) :
    scanSet ⟨stationNo first, stationNo last⟩ s =
      .ok (((s.leftOut (scanOrder first last)).foldl (fun (s : State) st => s.screenAbsent st)
          (s.rescan first last)).dropOutside (scanOrder first last),
        [.num 1 (stationNo first), .num 1 (stationNo last), .num 1 (s.leftOut (scanOrder first last)).length] ++
          (s.leftOut (scanOrder first last)).map fun x => .num 1 (stationNo x)) := by
  have inside := fun x => (State.scanOrder_scans first last).1 x
  have unsigned : ((List.finRange 12).all fun st => (scanOrder first last).contains st || (s.signOn? st).isNone) = true := by
    simp only [List.all_eq_true, Bool.or_eq_true, List.contains_iff_mem, inside, Option.isNone_iff_eq_none]
    exact fun x _ => Classical.or_iff_not_imp_left.mpr fun outside => (free x outside).1
  have untested : ((List.finRange 12).all fun st =>
      (scanOrder first last).contains st || !(s.line st).test.running) = true := by
    simp only [List.all_eq_true, Bool.or_eq_true, List.contains_iff_mem, inside, Bool.not_eq_true']
    exact fun x _ => Classical.or_iff_not_imp_left.mpr fun outside => (free x outside).2
  simp only [scanSet, station?_stationNo, require_some, ok_bind, need_true unsigned, need_true untested, listOf_single]
  rfl

/-- The part after SCAN SET: under the new range the stations of `gone` have been taken as absent in `v`, and the slot in progress
is dropped where its station lies outside. -/
theorem State.rescan_replied {u v : State} (s : State) (first last : Station) (gone range : List Station) (reply : Sent)
    (absent : TakesAbsent gone (s.quiet.rescan first last) v) (after : u = (v.dropOutside range).emit reply) :
    (u.slc.first = first ∧ u.slc.last = last ∧ u.slc.walk = [] ∧ u.slc.round = s.slc.round) ∧
      (∀ x : Station, u.presence x = v.presence x ∧ u.line x = v.line x ∧ (u.station x).setup = (s.station x).setup) ∧
      u.hlc = v.hlc ∧
      ((s.slc.slot = none → u.slc.slot = none) ∧
        ∀ sl : Slot, s.slc.slot = some sl → (sl.station ∈ range → u.slc.slot = some sl) ∧
          (sl.station ∉ range → u.slc.slot = some { sl with dropped := true })) ∧
      u = { s with sent := [reply], stu := u.stu, slc := u.slc, hlc := u.hlc } := by
  have slc : v.slc = { (s.quiet.rescan first last).slc with lines := v.slc.lines } := congrArg State.slc absent.only
  have slots := v.dropOutside_slot range
  have slot : v.slc.slot = s.slc.slot := by rw [slc]; rfl
  have kept : u = { v with sent := v.sent ++ [reply], slc := { v.slc with slot := u.slc.slot } } := by
    rw [after]
    conv => lhs; rw [State.dropOutside_rest]
    rfl
  rw [slot] at slots
  refine ⟨?_, fun x => ?_, ?_, after ▸ slots, ?_⟩
  · rw [kept, slc]
    exact ⟨rfl, rfl, rfl, rfl⟩
  · rw [kept]
    exact ⟨rfl, rfl, absent.setups x⟩
  · rw [kept]
  · rw [kept, absent.only]
    rfl

/-- Settles O42: the stations left out are taken as absent one after another under the new range, and the slot in progress is
dropped where its station lies outside. -/
theorem scanSetSetsTheRange : Obligations.ScanSetSetsTheRange := by
  refine ⟨fun s sl r live out dropped => (exec_screenReply r s).trans (takeEvent_still fun _ =>
    State.takeReply_discards (s := s.quiet) fun other its => .inr ?_), ?_⟩
  · rw [← Option.some.inj (out.symm.trans its), dropped]
  intro s tag first last up free
  obtain ⟨gone, its⟩ : ∃ gone, gone = s.quiet.leftOut (scanOrder first last) := ⟨_, rfl⟩
  have inside := (State.scanOrder_scans first last).1
  have member : ∀ x, x ∈ gone ↔ ¬ InScan first last x ∧ s.presence x = .present :=
    its ▸ State.mem_leftOut (s := s.quiet) fun x outside => (free x outside).1
  have absent := (s.quiet.rescan first last).foldl_screenAbsent_takes (its ▸ s.quiet.leftOut_nodup _)
    fun x left => ((member x).mp left).2
  have done := scanSet_set (s := s.quiet) free
  rw [← its] at done
  obtain ⟨⟨firstSet, lastSet, walk, round⟩, records, link, ⟨closed, slot⟩, only⟩ :=
    State.rescan_replied s first last gone (scanOrder first last) (replyTo 0x34 tag .ok ([.num 1 (stationNo first),
      .num 1 (stationNo last), .num 1 gone.length] ++ gone.map fun x => .num 1 (stationNo x))) absent rfl
  obtain ⟨u, outcome, after⟩ : ∃ u, exec (.scanSet ⟨tag, some ⟨stationNo first, stationNo last⟩⟩) s = .next u ∧ u = _ :=
    ⟨_, (exec_scanSet _ s).trans (takeRequest_ok up rfl done), rfl⟩
  rw [← after] at firstSet lastSet walk round records link closed slot only
  have slots : ∀ sl : Slot, s.slc.slot = some sl → (InScan first last sl.station → u.slc.slot = some sl) ∧
      (¬ InScan first last sl.station → u.slc.slot = some { sl with dropped := true }) := fun sl out => by
    rw [← inside]
    exact slot sl out
  obtain ⟨stay, leave⟩ := absent.clears (first := first) (last := last) member fun x outside => (free x outside).1
  refine ⟨u, outcome, firstSet, lastSet, walk, round, fun x within => ?_, fun x outside => ?_, closed, slots, fun x => ?_, ?_,
    ⟨gone, member, its ▸ s.quiet.leftOut_pairwise _, ?_, fun room => (congrArg Hlc.notices link).trans (absent.notices room)⟩,
    ?_⟩
  · obtain ⟨presence, line, -⟩ := records x
    rw [presence, line]
    exact stay x within
  · obtain ⟨presence, line, -⟩ := records x
    rw [presence, line]
    exact leave x outside
  · obtain ⟨-, -, setup⟩ := records x
    exact setup
  · rw [KeepsLink, link]
    exact absent.link
  · rw [only]
  · rw [only]

end Sys2Proof.Machine
end

