-- ==== Sys2Proof/Proofs/Printers.lean ====
section
/-! SUPPORT. The printer controller: what a pick pass keeps, the end of the job of a printer that goes out of service, and the
statements about the printers' requests, messages and run-outs (06). -/

namespace Sys2Proof.Machine

open Sys2Proof

/-! ### A pick pass (R118) -/

/-- No QUEUED job waits for printer `p`, or `p` is not ready to pick one. -/
def NothingFor (p : Printer) (s : State) : Prop :=
  s.readyToPick p = true → ∀ j ∈ s.pjq.jobs, j.state = .queued → s.mayServe p j = false

theorem nothingToPick_iff (s : State) : NothingToPick s ↔ ∀ p, NothingFor p s := by
  have ready : ∀ p, s.readyToPick p = true ↔
      (s.printer p).device = .idle ∧ (s.printer p).hold = false ∧ (s.printer p).bound = none := fun p => by
    simp [State.readyToPick, and_assoc]
  exact ⟨fun nothing p its j member queued =>
      have ⟨idle, free, unbound⟩ := (ready p).mp its
      nothing p j idle free unbound member queued,
    fun nothing p j idle free unbound member queued => nothing p ((ready p).mpr ⟨idle, free, unbound⟩) j member queued⟩

/-- What picking, however often, keeps: a printer's record stands but for the job it takes, no job becomes QUEUED, and of the rest
only the ports, the job table and the indicators differ. -/
structure Picks (s u : State) : Prop where
  printer : ∀ x : Printer, u.printer x = s.printer x ∨
    ∃ id : Nat, u.printer x = { s.printer x with bound := some id, wrongBooks := 0, device := .waitingBook }
  queued : ∀ j ∈ u.pjq.jobs, j.state = .queued → j ∈ s.pjq.jobs
  line : KeepsLine s u
  rest : u = { s with sent := u.sent, prc := u.prc, slc := u.slc, pjq := u.pjq }

theorem Picks.refl (s : State) : Picks s s where
  printer _ := .inl rfl
  queued _ member _ := member
  line := KeepsLine.refl s
  rest := rfl

theorem Picks.trans {s v u : State} (first : Picks s v) (second : Picks v u) : Picks s u where
  printer x := by
    rcases second.printer x with same | ⟨id, took⟩
    · rw [same]
      exact first.printer x
    · refine .inr ⟨id, ?_⟩
      rcases first.printer x with same | ⟨_, before⟩
      · rw [took, same]
      · rw [took, before]
  queued j member queued := first.queued j (second.queued j member queued) queued
  line := first.line.trans second.line
  rest := by rw [second.rest, first.rest]

theorem Picks.ownerAndHold {s u : State} (picks : Picks s u) (x : Printer) :
    (u.printer x).owner = (s.printer x).owner ∧ (u.printer x).hold = (s.printer x).hold := by
  rcases picks.printer x with same | ⟨_, took⟩
  · rw [same]
    exact ⟨rfl, rfl⟩
  · rw [took]
    exact ⟨rfl, rfl⟩

/-- The jobs a printer may serve hang on the owners alone (R107). -/
theorem Picks.mayServe {s u : State} (picks : Picks s u) (p : Printer) (j : Job) : u.mayServe p j = s.mayServe p j := by
  simp only [State.mayServe, State.ownsPrinter, fun x => (picks.ownerAndHold x).1]

/-- A printer with nothing to pick finds nothing after another has picked. -/
theorem Picks.nothingFor {s u : State} {p : Printer} (picks : Picks s u) (nothing : NothingFor p s) : NothingFor p u :=
  fun ready j member queued => by
    have same : u.printer p = s.printer p := (picks.printer p).resolve_right fun ⟨_, took⟩ => by
      rw [State.readyToPick, took] at ready
      cases ready
    rw [picks.mayServe]
    refine nothing ?_ j (picks.queued j member queued) queued
    rwa [State.readyToPick, ← same]

/-- A printer's turn changes nothing where there is nothing for it, and else starts the oldest job it may serve. -/
theorem PickTurn.cases {p : Printer} {s u : State} (turn : PickTurn p s u) :
    NothingFor p s ∧ u = s ∨ ∃ j : Job,
      u.printer p = { s.printer p with bound := some j.id, wrongBooks := 0, device := .waitingBook } ∧ OnlyPrinter p s u ∧
      KeepsLine s u ∧ u = { s with
        sent := s.sent ++ [.printer p (.showInsert j.book)], prc := u.prc, slc := u.slc
        pjq := { s.pjq with jobs := jobsWith { j with state := .started, printer := some p, wait := some 180 } s } } := by
  obtain ⟨still, takes⟩ := turn
  cases ready : s.readyToPick p with
  | false => exact .inl ⟨fun its => absurd (ready.symm.trans its) (by decide), still (.inl ready)⟩
  | true =>
    cases found : s.pjq.jobs.find? fun j => decide (j.state = .queued) && s.mayServe p j with
    | none =>
      have none' : ∀ j ∈ s.pjq.jobs, j.state = .queued → s.mayServe p j = false := by simpa using found
      exact .inl ⟨fun _ => none', still (.inr none')⟩
    | some j =>
      obtain ⟨serves, older, newer, table, passed⟩ := List.find?_eq_some_iff_append.mp found
      simp only [Bool.and_eq_true, decide_eq_true_eq] at serves
      obtain ⟨here, others, -, line, rest⟩ := takes older newer j ready table serves.1 serves.2
        fun k before queued => by simpa [queued] using passed k before
      exact .inr ⟨j, here, others, line, rest⟩

theorem PickTurn.picks {p : Printer} {s u : State} (turn : PickTurn p s u) : Picks s u := by
  rcases turn.cases with ⟨-, rfl⟩ | ⟨j, here, others, line, rest⟩
  · exact Picks.refl u
  refine ⟨fun x => ?_, fun k member queued => ?_, line, by rw [rest]⟩
  · by_cases its : x = p
    · subst its
      exact .inr ⟨j.id, here⟩
    · exact .inl (others x its)
  · rw [rest] at member
    obtain ⟨old, inside, rfl⟩ := List.mem_map.mp member
    split at queued
    · cases queued
    · rwa [if_neg ‹_›]

theorem PickTurn.nothingFor {p : Printer} {s u : State} (turn : PickTurn p s u) : NothingFor p u := by
  rcases turn.cases with ⟨nothing, rfl⟩ | ⟨j, here, -⟩
  · exact nothing
  · intro ready
    rw [State.readyToPick, here] at ready
    cases ready

theorem PickPassed.picks {s u : State} (pass : PickPassed s u) : Picks s u := by
  obtain ⟨a, b, c, first, second, third, fourth⟩ := pass
  exact ((first.picks.trans second.picks).trans third.picks).trans fourth.picks

/-- After a pick pass there is nothing to pick: each printer had its turn, and those after it have left it nothing (R118). -/
theorem PickPassed.nothingToPick {s u : State} (pass : PickPassed s u) : NothingToPick u := by
  obtain ⟨a, b, c, first, second, third, fourth⟩ := pass
  rw [nothingToPick_iff]
  exact fun
    | 0 => ((second.picks.trans third.picks).trans fourth.picks).nothingFor first.nothingFor
    | 1 => (third.picks.trans fourth.picks).nothingFor second.nothingFor
    | 2 => fourth.picks.nothingFor third.nothingFor
    | 3 => fourth.nothingFor

/-- With no QUEUED job a pick pass changes nothing. -/
theorem PickPassed.still {s u : State} (pass : PickPassed s u) (none' : ∀ j ∈ s.pjq.jobs, j.state ≠ .queued) : u = s := by
  obtain ⟨a, b, c, ⟨first, -⟩, ⟨second, -⟩, ⟨third, -⟩, ⟨fourth, -⟩⟩ := pass
  obtain rfl := first (.inr fun j member queued => absurd queued (none' j member))
  obtain rfl := second (.inr fun j member queued => absurd queued (none' j member))
  obtain rfl := third (.inr fun j member queued => absurd queued (none' j member))
  exact fourth (.inr fun j member queued => absurd queued (none' j member))

/-- The part after a request that has written printer records, made a pick pass and been answered with `reply`. -/
theorem PickPassed.replied {s v w u : State} {reply : Sent} (pass : PickPassed v w)
    (wrote : v = { s with sent := [], prc := v.prc }) (after : u = w.emit reply) :
    (∀ x : Printer, (u.printer x).owner = (v.printer x).owner ∧ (u.printer x).hold = (v.printer x).hold) ∧ NothingToPick u ∧
      u.sent.getLast? = some reply ∧ KeepsLine s u ∧ u = { w with sent := u.sent } ∧ u.sent.dropLast = w.sent ∧
      u = { s with sent := u.sent, prc := u.prc, pjq := u.pjq, slc := u.slc } := by
  subst after
  have slc : v.slc = s.slc := by rw [wrote]
  refine ⟨pass.picks.ownerAndHold, pass.nothingToPick, List.getLast?_concat, pass.picks.line.since slc, rfl,
    List.dropLast_concat, ?_⟩
  rw [pass.picks.rest, wrote]
  rfl

/-! ### One printer's record written -/

namespace State

theorem setPrinter_setPrinter (s : State) (p : Printer) (a b : PrinterRec) :
    (s.setPrinter p a).setPrinter p b = s.setPrinter p b := by
  simp [setPrinter]

theorem setPrinter_only (s : State) (p : Printer) (r : PrinterRec) : OnlyPrinter p s (s.setPrinter p r) := fun x away => by
  rw [printer_setPrinter, if_neg away]

/-- The part after a command that has written printer `p`'s record and put `out` on the ports. -/
theorem setPrinter_written {s u : State} {p : Printer} {r : PrinterRec} {out : List Sent}
    (after : u = { s.setPrinter p r with sent := out }) :
    u.printer p = r ∧ OnlyPrinter p s u ∧ u = { s with sent := out, prc := u.prc } := by
  subst after
  exact ⟨s.printer_setPrinter_same p r, s.setPrinter_only p r, rfl⟩

end State

/-! ### ASSIGN PRINTER, PRINTER HOLD and PRINTER FREE (R108, R109) -/

theorem exec_assignPrinter (r : Req AssignPrinterFields) (s : State) :
    exec (.assignPrinter r) s = takeRequest 0x40 r s assignPrinter := rfl
theorem exec_printerHold (r : Req PrinterFields) (s : State) : exec (.printerHold r) s = takeRequest 0x41 r s printerHold := rfl
theorem exec_printerFree (r : Req PrinterFields) (s : State) : exec (.printerFree r) s = takeRequest 0x42 r s printerFree := rfl
theorem exec_printerReset (r : Req PrinterFields) (s : State) :
    exec (.printerReset r) s = takeRequest 0x43 r s printerReset := rfl

theorem owner?_code (owner : Owner) : owner? owner.code = some owner := by
  cases owner with
  | pool => rfl
  | station st => exact (if_neg (Nat.succ_ne_zero _)).trans (congrArg _ (station?_stationNo st))

section Holds

variable {s : State} {p : Printer} {n : Nat}

theorem assignPrinter_done (owner : Owner) (unbound : (s.printer p).bound = none) :
    assignPrinter ⟨p.val, owner.code⟩ s =
      .ok ((s.setPrinter p { s.printer p with owner := owner }).pickPass, [.num 1 owner.code]) := by
  simp only [assignPrinter, printer?_val, require_some, ok_bind, owner?_code, need_true unbound]
  rfl

/-- A hold request names all four printers by 255, or one by its number. -/
theorem holdTargets_named (named : n = 255 ∨ n = p.val) :
    ∃ ps, holdTargets n = some ps ∧ ∀ x, x ∈ ps ↔ n = 255 ∨ x = p := by
  by_cases all : n = 255
  · exact ⟨_, if_pos all, fun x => by simp [all]⟩
  · obtain rfl := named.resolve_left all
    exact ⟨[p], by rw [holdTargets, if_neg all, printer?_val]; rfl, fun x => by simp [all]⟩

theorem State.setHold_printer (s : State) (on : Bool) (ps : List Printer) (x : Printer) :
    (s.setHold on ps).printer x = { s.printer x with hold := if x ∈ ps then on else (s.printer x).hold } := by
  induction ps generalizing s with
  | nil => simp [State.setHold]
  | cons q ps ih =>
    have first : s.setHold on (q :: ps) = (s.setPrinter q { s.printer q with hold := on }).setHold on ps := rfl
    rw [first, ih, State.printer_setPrinter]
    by_cases its : x = q
    · simp [its]
    · simp [its]

theorem State.setHold_prc (s : State) (on : Bool) (ps : List Printer) :
    s.setHold on ps = { s with prc := (s.setHold on ps).prc } := by
  apply State.ext <;> simp

theorem State.emit_heldSet (s : State) (x : Sent) : (s.emit x).heldSet = s.heldSet := rfl

end Holds

/-- Settles O46: the pick pass keeps owners and holds, which the requests have written before it. -/
theorem printersAreAssignedHeldAndFreed : Obligations.PrintersAreAssignedHeldAndFreed := by
  intro s tag p owner n up named
  obtain ⟨ps, targets, member⟩ := holdTargets_named named
  have holds : ∀ on x, (s.quiet.setHold on ps).printer x =
      { s.printer x with hold := if n = 255 ∨ x = p then on else (s.printer x).hold } := fun on x => by
    rw [State.setHold_printer]
    simp only [member]
    rfl
  refine ⟨fun unbound => ?_, ?_, ?_⟩
  · obtain ⟨v, given⟩ : ∃ v, v = s.quiet.setPrinter p { s.printer p with owner := owner } := ⟨_, rfl⟩
    have done : assignPrinter ⟨p.val, owner.code⟩ s.quiet = .ok (v.pickPass, [.num 1 owner.code]) :=
      given ▸ assignPrinter_done (s := s.quiet) owner unbound
    have assigned : ∀ x, (v.printer x).owner = (if x = p then owner else (s.printer x).owner) ∧
        (v.printer x).hold = (s.printer x).hold := fun x => by
      rw [given, State.printer_setPrinter]
      split
      · exact ⟨rfl, congrArg (fun x => (s.printer x).hold) ‹x = p›.symm⟩
      · exact ⟨rfl, rfl⟩
    obtain ⟨u, after⟩ : ∃ u, u = v.pickPass.emit (replyTo 0x40 tag .ok [.num 1 owner.code]) := ⟨_, rfl⟩
    obtain ⟨owners, nothing, last, line, only, before, rest⟩ := v.pickPass_passed.replied (by rw [given]; rfl) after
    exact ⟨u, after ▸ (exec_assignPrinter _ s).trans (takeRequest_ok up rfl done),
      fun x => ⟨(owners x).1.trans (assigned x).1, (owners x).2.trans (assigned x).2⟩, nothing, last, line,
      ⟨_, given ▸ v.pickPass_passed, only, before⟩, rest⟩
  · have done : printerHold ⟨n⟩ s.quiet = .ok (s.quiet.setHold true ps, [.num 1 (s.quiet.setHold true ps).heldSet]) := by
      simp only [printerHold, targets, require_some, ok_bind]
      rfl
    refine ⟨_, (exec_printerHold _ s).trans (takeRequest_ok up rfl done), holds true, ?_⟩
    rw [s.quiet.setHold_prc true ps]
    rfl
  · obtain ⟨v, freed⟩ : ∃ v, v = s.quiet.setHold false ps := ⟨_, rfl⟩
    have done : printerFree ⟨n⟩ s.quiet = .ok (v.pickPass, [.num 1 v.pickPass.heldSet]) := by
      simp only [printerFree, targets, require_some, ok_bind, freed]
      rfl
    have printers := fun x => freed ▸ holds false x
    have wrote : v = { s with sent := [], prc := v.prc } := by
      rw [freed, State.setHold_prc]
      rfl
    obtain ⟨u, after⟩ : ∃ u, u = v.pickPass.emit (replyTo 0x42 tag .ok [.num 1 v.pickPass.heldSet]) := ⟨_, rfl⟩
    obtain ⟨owners, nothing, last, line, only, before, rest⟩ := v.pickPass_passed.replied wrote after
    have reported : v.pickPass.heldSet = u.heldSet := by rw [after, State.emit_heldSet]
    rw [reported] at last
    refine ⟨u, v, v.pickPass, after ▸ (exec_printerFree _ s).trans (takeRequest_ok up rfl done), printers, wrote,
      v.pickPass_passed, only, before, fun x => ?_, nothing, last, line, rest⟩
    obtain ⟨itsOwner, itsHold⟩ := owners x
    rw [itsOwner, itsHold, printers]
    exact ⟨rfl, rfl⟩

/-! ### The job of a printer that goes out of service (R114, R115, R140) -/

theorem KeepsLink.trans {s v u : State} (first : KeepsLink s v) (second : KeepsLink v u) : KeepsLink s u := by
  unfold KeepsLink at *
  rw [second, first]

/-- A notice raised changes the queue and the overflow flag alone, and the notices that stood stay at the queue's head. -/
theorem RaisesNotice.keeps {r : Raised} {s u : State} (raises : RaisesNotice r s u) :
    KeepsLink s u ∧ s.hlc.notices <+: u.hlc.notices := by
  obtain ⟨joins, overflows⟩ := raises
  unfold KeepsLink
  rcases Nat.lt_or_ge s.hlc.notices.length 32 with room | full
  · rw [joins room]
    exact ⟨rfl, List.prefix_append ..⟩
  · rw [overflows full]
    exact ⟨rfl, List.prefix_refl _⟩

/-- The notice raised joins at the queue's tail, where there is room, and later ones come after it. -/
theorem RaisesNotice.joins {r : Raised} {s v u : State} (raises : RaisesNotice r s v)
    (later : v.hlc.notices <+: u.hlc.notices) (room : s.hlc.notices.length < 32) :
    u.hlc.notices[s.hlc.notices.length]? = some r := by
  obtain ⟨after, whole⟩ := later
  rw [← whole, raises.1 room]
  simp

theorem job?_jobsWith {s u : State} {k j : Job} (table : u.pjq.jobs = jobsWith k s) (its : s.job? k.id = some j) :
    u.job? k.id = some k := by
  have same : ((fun x : Job => x.id == k.id) ∘ fun x => if x.id = k.id then k else x) = fun x => x.id == k.id := by
    funext x
    simp only [Function.comp]
    split <;> simp_all
  have found : j.id = k.id := by simpa using List.find?_some its
  rw [State.job?] at its ⊢
  rw [table, jobsWith, List.find?_map, same, its, Option.map_some, if_pos found]

/-- In a table whose jobs have ids of their own a job is found by its id. -/
theorem job?_of_mem {s : State} {j : Job} (distinct : (s.pjq.jobs.map (·.id)).Nodup) (member : j ∈ s.pjq.jobs) :
    s.job? j.id = some j := by
  obtain ⟨older, newer, table⟩ := List.append_of_mem member
  rw [table, List.map_append, List.map_cons, List.nodup_append] at distinct
  obtain ⟨-, -, apart⟩ := distinct
  have passed : ∀ k ∈ older, k.id ≠ j.id := fun k before =>
    apart k.id (List.mem_map_of_mem before) j.id List.mem_cons_self
  exact List.find?_eq_some_iff_append.mpr
    ⟨beq_self_eq_true j.id, older, newer, table, fun k before => by simp [passed k before]⟩

/-- A bound printer's job stands in the table, and names the printer (R105, R124). -/
theorem BindingsAgree.job_of_bound {s : State} (agree : BindingsAgree s) (powered : s.pins.powered = true) {p : Printer}
    {id : Nat} (bound : (s.printer p).bound = some id) : ∃ j, s.job? j.id = some j ∧ j.id = id ∧ j.printer = some p := by
  obtain ⟨-, distinct, -, agreeing⟩ := agree
  obtain ⟨j, member, its, named⟩ := (agreeing powered).1 p id bound
  exact ⟨j, job?_of_mem distinct member, its, named⟩

theorem Device.ne_idle_of_not_working {d : Device} (off : d.working = false) : d ≠ .idle := fun idle => by
  rw [idle] at off
  cases off

namespace State

/-- A job whose printer does not work ends without a pick pass (R119, R140). -/
theorem endJob_out_of_service {s : State} {p : Printer} {j : Job} {st : JobState} {why : Reason} (named : j.printer = some p)
    (off : (s.printer p).device.working = false) : s.endJob j st why = s.closeJob j st why := by
  have still : ((s.closeJob j st why).printer p).device = (s.printer p).device := by
    rw [closeJob_printer, if_pos named, off]
    rfl
  have notIdle : ¬ (((s.closeJob j st why).printer p).device == .idle) = true := by
    rw [still, beq_iff_eq]
    exact Device.ne_idle_of_not_working off
  simp only [endJob, named, if_neg notIdle]

/-- Printer `p`'s record becomes `out`, with notice `n`. -/
def noticed (s : State) (p : Printer) (out : PrinterRec) (n : Notice) : State := (s.setPrinter p out).raise n

/-- Printer `p`'s record becomes `out`, with notice `n`, and the job it was bound to fails: what a FAULT and the loss of a printer
share (R114, R115). -/
def takeOut (s : State) (p : Printer) (out : PrinterRec) (n : Notice) (why : Reason) : State :=
  (s.noticed p out n).failBound p why

theorem noticed_printer (s : State) (p x : Printer) (out : PrinterRec) (n : Notice) :
    (s.noticed p out n).printer x = if x = p then out else s.printer x := by
  rw [← printer_setPrinter, noticed, printer, printer, (raise_keeps _ n).2.1]

theorem noticed_raises (s : State) (p : Printer) (out : PrinterRec) (n : Notice) :
    RaisesNotice ⟨s.now, n⟩ s (s.noticed p out n) :=
  raise_raises (s.setPrinter p out) n

theorem noticed_rest (s : State) (p : Printer) (out : PrinterRec) (n : Notice) :
    s.noticed p out n = { s with hlc := (s.noticed p out n).hlc, prc := s.prc.set p out } :=
  (raise_keeps (s.setPrinter p out) n).2.1

end State

/-- Printer `p` has gone out of service with record `out` and notice `n`, and the job it was bound to, where it had one, has
failed: its closing is that of R140. -/
structure TakenOut (p : Printer) (out : PrinterRec) (n : Notice) (why : Reason) (s u : State) : Prop where
  record : { u.printer p with bound := out.bound, wrongBooks := out.wrongBooks } = out
  only : OnlyPrinter p s u
  notice : s.hlc.notices.length < 32 → u.hlc.notices[s.hlc.notices.length]? = some ⟨s.now, n⟩
  unbound : out.bound = none → u.pjq = s.pjq ∧ u.dju = s.dju ∧ u.slc = s.slc ∧ RaisesNotice ⟨s.now, n⟩ s u
  closes : ∀ j : Job, out.bound = some j.id → s.job? j.id = some j →
    u.job? j.id = some (j.ended .failed why) ∧ (u.printer p).bound = none ∧ JobCloses j .failed why (s.noticed p out n) u
  passbooks : OnlyPassbooks s u
  line : KeepsLine s u
  link : KeepsLink s u
  rest : u = { s with dju := u.dju, prc := u.prc, pjq := u.pjq, slc := u.slc, hlc := u.hlc }

theorem TakenOut.fields {p : Printer} {out : PrinterRec} {n : Notice} {why : Reason} {s u : State}
    (taken : TakenOut p out n why s u) :
    (u.printer p).device = out.device ∧ (u.printer p).faultCode = out.faultCode ∧ (u.printer p).clears = out.clears ∧
      (u.printer p).probing = out.probing ∧ (u.printer p).misses = out.misses ∧ (u.printer p).owner = out.owner ∧
      (u.printer p).hold = out.hold ∧ (u.printer p).timer = out.timer := by
  rw [← taken.record]
  exact ⟨rfl, rfl, rfl, rfl, rfl, rfl, rfl, rfl⟩

section TakeOut

variable {s : State} {p : Printer} {out : PrinterRec} {n : Notice} {why : Reason}

/-- Without a bound job the record and the notice are all. -/
theorem State.noticed_takenOut (free : out.bound = none) : TakenOut p out n why s (s.noticed p out n) := by
  have raises := s.noticed_raises p out n
  have rest := s.noticed_rest p out n
  have slc : (s.noticed p out n).slc = s.slc := by rw [rest]
  have dju : (s.noticed p out n).dju = s.dju := by rw [rest]
  refine ⟨?_, fun x away => ?_, raises.joins (List.prefix_refl _), fun _ => ⟨?_, dju, slc, raises⟩,
    fun j its => ?_, ⟨by rw [dju], by rw [dju]⟩, (KeepsLine.refl _).since slc, raises.keeps.1, by rw [rest]⟩
  · rw [State.noticed_printer, if_pos rfl]
  · rw [State.noticed_printer, if_neg away]
  · rw [rest]
  · rw [free] at its
    cases its

/-- The bound job closes beside the record and the notice, and its printer stays out of service. -/
theorem State.noticed_closeJob_takenOut {j : Job} (off : out.device.working = false) (bound : out.bound = some j.id)
    (table : s.job? j.id = some j) (named : j.printer = some p) :
    TakenOut p out n why s ((s.noticed p out n).closeJob j .failed why) := by
  have raises := s.noticed_raises p out n
  have rest := s.noticed_rest p out n
  have printers := (s.noticed p out n).closeJob_printer j .failed why
  have closes := (s.noticed p out n).closeJob_closes j .failed why
  have record := fun x => s.noticed_printer p x out n
  generalize made : s.noticed p out n = v at *
  generalize v.closeJob j .failed why = u at *
  have slc : v.slc = s.slc := by rw [rest]
  have dju : v.dju = s.dju := by rw [rest]
  have jobs : v.job? j.id = some j := by
    rw [rest]
    exact table
  have here : u.printer p = { out with bound := none, wrongBooks := 0 } := by
    rw [printers, if_pos named, record, if_pos rfl, off]
    rfl
  have others : OnlyPrinter p s u := fun x away => by
    rw [printers, if_neg fun its => away (Option.some.inj (named.symm.trans its)).symm, record, if_neg away]
  obtain ⟨frees, -, line, ended, restU⟩ := id closes
  refine ⟨by rw [here], others, raises.joins ended.keeps.2, fun none' => ?_, fun k its found => ?_, ?_, line.since slc,
    raises.keeps.1.trans ended.keeps.1, by rw [restU, rest]⟩
  · rw [bound] at none'
    cases none'
  · rw [← Option.some.inj (bound.symm.trans its), table] at found
    obtain rfl := Option.some.inj found
    exact ⟨job?_jobsWith (k := j.ended .failed why) (by rw [restU]) jobs, by rw [here], made ▸ closes⟩
  · rw [OnlyPassbooks, ← dju]
    exact frees.1

theorem State.takeOut_takenOut (agree : BindingsAgree s) (powered : s.pins.powered = true)
    (off : out.device.working = false) (same : out.bound = (s.printer p).bound) :
    TakenOut p out n why s (s.takeOut p out n why) := by
  have here : (s.noticed p out n).printer p = out := by rw [noticed_printer, if_pos rfl]
  have jobs : (s.noticed p out n).job? = s.job? := by rw [noticed_rest]; rfl
  cases bound : out.bound with
  | none =>
    have nothing : s.takeOut p out n why = s.noticed p out n := by
      rw [takeOut, failBound, boundJob, here, bound]
      rfl
    rw [nothing]
    exact noticed_takenOut bound
  | some id =>
    obtain ⟨j, table, rfl, named⟩ := agree.job_of_bound powered (same ▸ bound)
    have fails : s.takeOut p out n why = (s.noticed p out n).closeJob j .failed why := by
      rw [takeOut, failBound, boundJob, here, bound, jobs, Option.bind_some, table]
      exact endJob_out_of_service named (here.symm ▸ off)
    rw [fails]
    exact noticed_closeJob_takenOut off bound table named

/-- A FAULT, itself a sign of life, takes a printer out of service (R111, R115). -/
theorem State.failPrinter_takenOut (agree : BindingsAgree s) (powered : s.pins.powered = true) (code : FaultCode) :
    TakenOut p { s.printer p with
        device := .fault, faultCode := some code, clears := 0, probing := false, misses := 0, timer := 5 }
      (.printerFault p code (s.printer p).bound) .printerFault s ((s.alive p).failPrinter p code) := by
  have fails : (s.alive p).failPrinter p code = s.takeOut p
      { s.printer p with device := .fault, faultCode := some code, clears := 0, probing := false, misses := 0, timer := 5 }
      (.printerFault p code (s.printer p).bound) .printerFault := by
    rw [failPrinter, alive, printer_setPrinter_same, setPrinter_setPrinter]
    rfl
  rw [fails]
  exact takeOut_takenOut agree powered rfl rfl

/-- So does the loss of it (R114). -/
theorem State.losePrinter_takenOut (agree : BindingsAgree s) (powered : s.pins.powered = true) :
    TakenOut p { s.printer p with device := .offline, probing := false, misses := 0, timer := 5 }
      (.printerOffline p false (s.printer p).bound) .printerLost s (s.losePrinter p) :=
  takeOut_takenOut agree powered rfl rfl

end TakeOut

/-! ### PRINTER RESET, the CLEAR of an OFFLINE printer, and the probes (R112, R113, R114, R117) -/

theorem exec_offlineClearInterval (p : Printer) (s : State) : exec (.offlineClearInterval p) s = takeEvent s fun s =>
    if (s.printer p).device = .offline ∧ (s.printer p).timer = 1 then s.clearRunOut p else s := rfl
theorem exec_probeTimerRunout (p : Printer) (s : State) : exec (.probeTimerRunout p) s = takeEvent s fun s =>
    if (s.printer p).device.working = true ∧ (s.printer p).timer = 1 then s.probeRunOut p else s := rfl

/-- A part that runs is powered. -/
theorem State.powered_of_live {s : State} (live : s.live = true) : s.pins.powered = true :=
  (Bool.and_eq_true_iff.mp live).1

section RunOuts

variable {s : State} {p : Printer}

theorem printerReset_done (failed : (s.printer p).device = .fault) : printerReset ⟨p.val⟩ s =
    .ok ((s.setPrinter p { s.printer p with
      device := .offline, timer := 5, probing := false, misses := 0, faultCode := none, clears := 1 }).emitTo p .clear, []) := by
  simp only [printerReset, printer?_val, require_some, ok_bind, need_true failed]
  rfl

/-- A probe that is due goes out: the first, or one after a missed one (R113). -/
theorem State.probeRunOut_probes (few : (s.printer p).probing = false ∨ (s.printer p).misses < 2) :
    s.probeRunOut p = (s.setPrinter p { s.printer p with
      probing := true, timer := 5
      misses := if (s.printer p).probing then (s.printer p).misses + 1 else (s.printer p).misses }).emitTo p .probe := by
  cases probing : (s.printer p).probing with
  | false => simp [probeRunOut, probing, Config.probeTime]
  | true => simp [probeRunOut, probing, few.resolve_left (by simp [probing]), Config.probeTime]

theorem State.probeRunOut_loses (probing : (s.printer p).probing = true) (third : 2 ≤ (s.printer p).misses) :
    s.probeRunOut p = s.losePrinter p := by
  simp only [probeRunOut, probing, if_true, if_neg (Nat.not_lt.mpr third)]

end RunOuts

/-- Settles O48: each run-out writes the printer's record alone, but for the third missed probe, which takes it out of service. -/
theorem probesAndClearsGoOut : Obligations.ProbesAndClearsGoOut := by
  rintro s p _ rfl
  have probes (live : s.live = true) (works : (s.printer p).device.working = true) (last : (s.printer p).timer = 1) :
      exec (.probeTimerRunout p) s = .next (s.quiet.probeRunOut p) :=
    (exec_probeTimerRunout p s).trans ((takeEvent_live live).trans (congrArg _ (if_pos ⟨works, last⟩)))
  refine ⟨fun tag up failed => ?_, fun live off last => ?_, fun live works last few => ?_,
    fun live works last probing third agree => ?_⟩
  · exact ⟨_, (exec_printerReset _ s).trans (takeRequest_ok up rfl (printerReset_done (s := s.quiet) failed)),
      State.setPrinter_written rfl⟩
  · exact ⟨_, (exec_offlineClearInterval p s).trans ((takeEvent_live live).trans (congrArg _ (if_pos ⟨off, last⟩))),
      State.setPrinter_written rfl⟩
  · rw [probes live works last, State.probeRunOut_probes (s := s.quiet) few]
    exact ⟨_, rfl, State.setPrinter_written rfl⟩
  · rw [probes live works last, State.probeRunOut_loses (s := s.quiet) probing third]
    have out := State.losePrinter_takenOut (s := s.quiet) (p := p) agree (State.powered_of_live live)
    generalize s.quiet.losePrinter p = u at out
    obtain ⟨device, -, -, probing, misses, owner, hold, timer⟩ := out.fields
    obtain ⟨-, only, notice, unbound, closes, passbooks, line, link, rest⟩ := out
    refine ⟨u, rfl, device, timer, probing, misses, owner, hold, only, notice, fun free => ?_, closes, passbooks, line, link,
      rest⟩
    rw [← free]
    exact unbound free

/-! ### The messages of a printer (R111, R112, R115, R116) -/

theorem exec_signOfLife {c : Instr} {p : Printer} (s : State)
    (sign : c = .bookOut p ∨ c = .probeReply p ∨ c = .unlistedPrinterMessage p) :
    exec c s = takeEvent s fun s => s.message p id := by
  rcases sign with rfl | rfl | rfl
  · rfl
  · rfl
  · rfl

theorem exec_ready (p : Printer) (s : State) : exec (.ready p) s = takeEvent s fun s => s.takeReady p := rfl
theorem exec_fault (p : Printer) (n : Nat) (s : State) :
    exec (.fault p n) s = takeEvent s fun s => s.message p fun s => s.failPrinter p (faultCodeOf n) := rfl

theorem faultCodeOf_eq {n : Nat} {code : FaultCode}
    (named : n = 1 ∧ code = .jam ∨ n = 2 ∧ code = .stripe ∨ n ≠ 1 ∧ n ≠ 2 ∧ code = .mech) : faultCodeOf n = code := by
  rcases named with ⟨rfl, rfl⟩ | ⟨rfl, rfl⟩ | ⟨not1, not2, rfl⟩
  · rfl
  · rfl
  · unfold faultCodeOf
    split
    · exact absurd rfl not1
    · exact absurd rfl not2
    · rfl

/-- The record of a printer that has given a sign of life (R111). -/
def PrinterRec.heard (r : PrinterRec) : PrinterRec := { r with misses := 0, probing := false, timer := 5 }

/-- The record of a printer that has come online (R112). -/
def PrinterRec.online (r : PrinterRec) : PrinterRec :=
  { r with device := .idle, clears := 0, probing := false, misses := 0, timer := 5, wrongBooks := 0, faultCode := none }

namespace State

section Messages

variable {s : State} {p : Printer}

theorem message_working (works : (s.printer p).device.working = true) (f : State → State) : s.message p f = f (s.alive p) :=
  if_pos works

theorem message_discarded (off : (s.printer p).device.working = false) (f : State → State) : s.message p f = s :=
  if_neg (by rw [off]; decide)

theorem alive_eq (s : State) (p : Printer) : s.alive p = s.setPrinter p (s.printer p).heard := rfl

theorem alive_printer (s : State) (p : Printer) : (s.alive p).printer p = (s.printer p).heard :=
  s.printer_setPrinter_same p _

theorem takeReady_offline (off : (s.printer p).device = .offline) : s.takeReady p = s.comeOnline p := by
  simp only [takeReady, off]

theorem takeReady_message (on : (s.printer p).device ≠ .offline) : s.takeReady p = s.message p fun s => s.readyAtWork p := by
  unfold takeReady
  split
  · exact absurd ‹_› on
  · rfl

theorem takeReady_working (works : (s.printer p).device.working = true) : s.takeReady p = (s.alive p).readyAtWork p := by
  have on : (s.printer p).device ≠ .offline := fun off => by
    rw [off] at works
    cases works
  rw [takeReady_message on, message_working works]

/-- READY that answers a CLEAR (R111). -/
theorem readyAtWork_clears (out : 0 < (s.printer p).clears) :
    s.readyAtWork p = s.setPrinter p { s.printer p with clears := (s.printer p).clears - 1 } :=
  if_pos out

/-- READY that comes unasked from an IDLE printer (R116). -/
theorem readyAtWork_idle (asked : (s.printer p).clears = 0) (idle : (s.printer p).device = .idle) : s.readyAtWork p = s := by
  simp only [readyAtWork, asked, idle, Nat.lt_irrefl, if_false]

/-- READY that comes unasked from a busy printer, whose job is lost (R116). -/
theorem readyAtWork_busy {j : Job} (asked : (s.printer p).clears = 0) (busy : (s.printer p).device ≠ .idle)
    (bound : (s.printer p).bound = some j.id) (table : s.job? j.id = some j) :
    s.readyAtWork p = (s.raise (.printerOffline p true (some j.id))).endJob j .failed .printerLost := by
  have jobOf : (s.raise (.printerOffline p true (some j.id))).boundJob p = some j := by
    rw [(raise_keeps s _).2.1]
    exact (congrArg (·.bind s.job?) bound).trans table
  rw [readyAtWork, if_neg (by rw [asked]; decide), bound]
  split
  · exact absurd ‹_› busy
  · rw [failBound, jobOf]

end Messages

end State

/-- What a pick pass leaves of the record of a printer that is IDLE before it (R118, R119). -/
theorem Picks.keepsRecord {s u : State} {p : Printer} (picks : Picks s u) (idle : (s.printer p).device = .idle) :
    ((u.printer p).device = .idle ∨ (u.printer p).device = .waitingBook) ∧ (u.printer p).clears = (s.printer p).clears ∧
      (u.printer p).timer = (s.printer p).timer ∧ (u.printer p).probing = (s.printer p).probing ∧
      (u.printer p).misses = (s.printer p).misses ∧ (u.printer p).faultCode = (s.printer p).faultCode := by
  rcases picks.printer p with same | ⟨_, took⟩
  · rw [same]
    exact ⟨.inl idle, rfl, rfl, rfl, rfl, rfl⟩
  · rw [took]
    exact ⟨.inr rfl, rfl, rfl, rfl, rfl, rfl⟩

namespace State

variable {s : State} {p : Printer}

theorem comeOnline_passed (s : State) (p : Printer) :
    PickPassed (s.noticed p (s.printer p).online (.printerOnline p (s.printer p).owner)) (s.comeOnline p) :=
  pickPass_passed _

/-- A pick pass right after a printer's record and its notice. -/
theorem noticed_passed {out : PrinterRec} {n : Notice} {u : State} (pass : PickPassed (s.noticed p out n) u) :
    RaisesNotice ⟨s.now, n⟩ s u ∧
      ((∀ j ∈ s.pjq.jobs, j.state ≠ .queued) → OnlyPrinter p s u ∧ u.sent = s.sent ∧ u.pjq = s.pjq ∧ u.slc = s.slc) ∧
      KeepsLine s u ∧ u = { s with sent := u.sent, prc := u.prc, pjq := u.pjq, slc := u.slc, hlc := u.hlc } := by
  have raises := s.noticed_raises p out n
  have rest := s.noticed_rest p out n
  have printers := fun x => s.noticed_printer p x out n
  generalize s.noticed p out n = v at *
  have slc : v.slc = s.slc := by rw [rest]
  have hlc : u.hlc = v.hlc := by rw [pass.picks.rest]
  refine ⟨?_, fun none' => ?_, pass.picks.line.since slc, ?_⟩
  · rwa [RaisesNotice, hlc]
  · obtain rfl : u = v := pass.still (by rw [rest]; exact none')
    exact ⟨fun x away => (printers x).trans (if_neg away), by rw [rest], by rw [rest], slc⟩
  · rw [pass.picks.rest, rest]

/-- READY that comes unasked from a busy printer: the sign of life, the notice, and the job's end (R111, R116). -/
theorem readyAtWork_ends {j : Job} (works : (s.printer p).device.working = true) (asked : (s.printer p).clears = 0)
    (busy : (s.printer p).device ≠ .idle) (bound : (s.printer p).bound = some j.id) (table : s.job? j.id = some j)
    (named : j.printer = some p) :
    EndsAt p j .failed .printerLost [] (s.noticed p (s.printer p).heard (.printerOffline p true (s.printer p).bound))
      ((s.alive p).readyAtWork p) := by
  have lost : (s.alive p).readyAtWork p = (s.noticed p (s.printer p).heard
      (.printerOffline p true (s.printer p).bound)).endJob j .failed .printerLost := by
    rw [readyAtWork_busy (s := s.alive p) (j := j) (by rw [alive_printer]; exact asked) (by rw [alive_printer]; exact busy)
      (by rw [alive_printer]; exact bound) table, bound]
    rfl
  have ends := endJob_ends (s.noticed p (s.printer p).heard (.printerOffline p true (s.printer p).bound)) p j .failed .printerLost
    [] named (by rw [noticed_printer, if_pos rfl]; exact works)
  rw [List.map_nil, List.append_nil] at ends
  rw [lost]
  exact ends

end State

/-- Settles O47: a sign of life writes the printer's record alone; the pick pass and the job's end follow the notice. -/
theorem printerMessagesAreTaken : Obligations.PrinterMessagesAreTaken := by
  rintro s p _ live rfl
  have working (works : (s.printer p).device.working = true) : exec (.ready p) s = .next ((s.quiet.alive p).readyAtWork p) :=
    (exec_ready p s).trans ((takeEvent_live live).trans (congrArg _ (State.takeReady_working (s := s.quiet) works)))
  have record := s.quiet.alive_printer p
  refine ⟨fun c sign => ⟨fun works => ?_, fun off => ?_⟩, fun works asked => ?_, fun idle unasked => ?_,
    fun j busy unasked bound table named => ?_, fun off => ?_, fun failed => ?_,
    fun n code its => ⟨fun works agree => ?_, fun off => ?_⟩⟩
  · exact ⟨_, (exec_signOfLife s sign).trans ((takeEvent_live live).trans
      (congrArg _ (State.message_working (s := s.quiet) works id))), State.setPrinter_written rfl⟩
  · exact (exec_signOfLife s sign).trans (takeEvent_still fun _ => State.message_discarded (s := s.quiet) off id)
  · have asked' : 0 < ((s.quiet.alive p).printer p).clears := by
      rw [record]
      exact asked
    rw [working works, State.readyAtWork_clears asked', record, State.alive_eq, State.setPrinter_setPrinter]
    exact ⟨_, rfl, State.setPrinter_written rfl⟩
  · have works : (s.printer p).device.working = true := by rw [idle]; rfl
    rw [working works, State.readyAtWork_idle (by rw [record]; exact unasked) (by rw [record]; exact idle)]
    exact ⟨_, rfl, State.setPrinter_written rfl⟩
  · have works : (s.printer p).device.working = true ∧ (s.printer p).device ≠ .idle := by
      rcases busy with its | its | its
      all_goals
        rw [its]
        decide
    rw [working works.1]
    exact ⟨_, _, rfl, s.quiet.noticed_raises p _ _, s.quiet.noticed_rest p _ _,
      State.readyAtWork_ends (s := s.quiet) works.1 unasked works.2 bound table named⟩
  · have pass := s.quiet.comeOnline_passed p
    have here := (s.quiet.noticed_printer p p (s.quiet.printer p).online
      (.printerOnline p (s.quiet.printer p).owner)).trans (if_pos rfl)
    rw [exec_ready, takeEvent_live live, State.takeReady_offline (s := s.quiet) off]
    generalize s.quiet.comeOnline p = u at pass
    obtain ⟨device, clears, timer, probing, misses, code⟩ := pass.picks.keepsRecord (p := p) (by rw [here]; rfl)
    obtain ⟨owner, hold⟩ := pass.picks.ownerAndHold p
    rw [here] at clears timer probing misses code owner hold
    obtain ⟨raises, alone, line, rest⟩ := State.noticed_passed pass
    exact ⟨u, rfl, device, clears, timer, probing, misses, code, owner, hold, pass.nothingToPick, raises, pass, alone, line, rest⟩
  · exact (exec_ready p s).trans (takeEvent_still fun _ => (State.takeReady_message (s := s.quiet) (by
      rw [State.quiet_printer, failed]; decide)).trans (State.message_discarded (s := s.quiet) (by
      rw [State.quiet_printer, failed]; rfl) _))
  · have out := State.failPrinter_takenOut (s := s.quiet) (p := p) agree (State.powered_of_live live) code
    rw [exec_fault, takeEvent_live live, State.message_working (s := s.quiet) works, faultCodeOf_eq its]
    generalize (s.quiet.alive p).failPrinter p code = u at out
    obtain ⟨device, reported, clears, probing, misses, owner, hold, -⟩ := out.fields
    obtain ⟨-, only, notice, unbound, closes, passbooks, line, link, rest⟩ := out
    refine ⟨u, rfl, device, reported, clears, probing, misses, owner, hold, only, notice, fun free => ?_, closes, passbooks,
      line, link, rest⟩
    rw [← free]
    exact unbound free
  · exact (exec_fault p n s).trans (takeEvent_still fun _ => State.message_discarded (s := s.quiet) off _)

end Sys2Proof.Machine
end
